-- ==== Sys2Proof/Word.lean ====
section
/-! DEFINITION. The word types of CORE: bus words, bus offsets, register values. -/

namespace Sys2Proof

/-- One bus word: every bus access is one 32-bit word (20_memory.md R52). -/
abbrev Word := BitVec 32

/-- A byte offset from BASE_ADDR inside the 4096-byte register window (20_memory.md R50). -/
abbrev Offset := BitVec 12

/-- What a W-bit register holds (10_state.md R20).  512 bits serve both legal widths
(00_scope.md R7); an instance with W = 256 keeps the upper half zero, which `State.Inv` says and
every step keeps. -/
abbrev Val := BitVec 512

end Sys2Proof
end

