-- ==== Sys2Proof/Syntax.lean ====
section
/-! DEFINITION. The commands of CORE, one constructor per row of spec/opcode_table.json, and the
fields of a command word (30_encoding.md R81). -/

namespace Sys2Proof

/-- A field-register index, R0 to R15 (10_state.md R20). -/
abbrev FReg := Fin 16

/-- A point-register index, P0 to P7 (10_state.md R22). -/
abbrev PReg := Fin 8

/-- The modulus select MS of a field command (30_encoding.md R83): `p` is MS = 0 and selects cfg.P,
`q` is MS = 1 and selects cfg.Q. -/
inductive ModSel where
  | p
  | q
deriving DecidableEq, Repr

/-- The mnemonics of the opcode map (30_encoding.md R86). -/
inductive Op where
  | FADD | FSUB | FMUL | FSQR | FNEG | FRED | FINV | FMOV
  | PADD | PMUL | PLDG | PSETI | PMOV | PSET | PGETX | PGETY
deriving DecidableEq, Repr

/-- A command with its operands, destination first as the assembler writes it (30_encoding.md R82,
R90).  Operand kinds and index ranges are in the types: a point index is below 8, FMOV and the point
commands have no modulus select. -/
inductive Instr where
  /-- x[d] <- (x[a] + x[b]) mod M (40_field.md R111). -/
  | fadd (ms : ModSel) (d a b : FReg)
  /-- x[d] <- (x[a] - x[b]) mod M (40_field.md R112). -/
  | fsub (ms : ModSel) (d a b : FReg)
  /-- x[d] <- (x[a] · x[b]) mod M (40_field.md R113). -/
  | fmul (ms : ModSel) (d a b : FReg)
  /-- x[d] <- (x[a] · x[a]) mod M (40_field.md R114). -/
  | fsqr (ms : ModSel) (d a : FReg)
  /-- x[d] <- (0 - x[a]) mod M (40_field.md R115). -/
  | fneg (ms : ModSel) (d a : FReg)
  /-- x[d] <- x[a] mod M (40_field.md R116). -/
  | fred (ms : ModSel) (d a : FReg)
  /-- x[d] <- the inverse of x[a] mod M, or 0 with NI = 1 (40_field.md R117). -/
  | finv (ms : ModSel) (d a : FReg)
  /-- x[d] <- x[a], raw (40_field.md R118). -/
  | fmov (d a : FReg)
  /-- pt[d] <- pt[a] + pt[b] (41_point.md R150). -/
  | padd (d a b : PReg)
  /-- pt[d] <- x[b] · pt[a] (41_point.md R151). -/
  | pmul (d a : PReg) (b : FReg)
  /-- pt[d] <- (cfg.GX, cfg.GY) (41_point.md R152). -/
  | pldg (d : PReg)
  /-- pt[d] <- IDENTITY (41_point.md R153). -/
  | pseti (d : PReg)
  /-- pt[d] <- pt[a] (41_point.md R154). -/
  | pmov (d a : PReg)
  /-- pt[d] <- (x[a], x[b]) (41_point.md R155). -/
  | pset (d : PReg) (a b : FReg)
  /-- x[d] <- the x coordinate of pt[a] (41_point.md R156). -/
  | pgetx (d : FReg) (a : PReg)
  /-- x[d] <- the y coordinate of pt[a] (41_point.md R157). -/
  | pgety (d : FReg) (a : PReg)
deriving DecidableEq, Repr

/-- The pseudo-instruction `PDBL Pd, Pa`: doubling (30_encoding.md R91). -/
abbrev Instr.pdbl (d a : PReg) : Instr := .padd d a a

/-- The pseudo-instruction `FCLR Rd`: x[d] <- 0 (30_encoding.md R91). -/
abbrev Instr.fclr (ms : ModSel) (d : FReg) : Instr := .fsub ms d d d

/-- The pseudo-instruction `FEQ Rd, Ra, Rb`: compare modulo M (30_encoding.md R91). -/
abbrev Instr.feq (ms : ModSel) (d a b : FReg) : Instr := .fsub ms d a b

/-- The fields of a command word as bits, before any check (30_encoding.md R81). -/
structure Fields where
  opc  : BitVec 8
  ms   : BitVec 1
  rsv1 : BitVec 3
  d    : BitVec 4
  a    : BitVec 4
  b    : BitVec 4
  rsv0 : BitVec 8
deriving DecidableEq, Repr

/-- An operand as an assembler reads it, its index not yet checked (30_encoding.md R90). -/
inductive AsmOperand where
  | r (n : Nat)
  | p (n : Nat)
deriving DecidableEq, Repr

/-- One assembler line as tokens: the mnemonic, the suffix `.P` or `.Q` if there is one, and the
operands in the order written (30_encoding.md R90). -/
structure AsmLine where
  op       : Op
  suffix   : Option ModSel
  operands : List AsmOperand
deriving DecidableEq, Repr

end Sys2Proof
end

