-- ==== Sys2Proof/WellFormed.lean ====
section
/-! DEFINITION. The checks that make a command word or an assembler line a command: the operand
roles of 30_encoding.md R82 to R85, on the fields of a word, and the refusals of R90, on a line.
The decoder is written from the mask table of R86 instead (Decode.lean); that the two readings of
the encoding agree is a statement. -/

namespace Sys2Proof

/-- The role of an operand field (30_encoding.md R82): a field register (all 4 bits used), a point
register (bit 3 must be 0), or unused (the whole field must be 0). -/
inductive Role where
  | field
  | point
  | unused
deriving DecidableEq, Repr

/-- One row of the role table: whether MS is free, and the roles of D, A and B. -/
structure Roles where
  msFree : Bool
  d : Role
  a : Role
  b : Role
deriving DecidableEq, Repr

/-- The role table of 30_encoding.md R82. -/
def Op.roles : Op → Roles
  | .FADD | .FSUB | .FMUL => ⟨true, .field, .field, .field⟩
  | .FSQR | .FNEG | .FRED | .FINV => ⟨true, .field, .field, .unused⟩
  | .FMOV => ⟨false, .field, .field, .unused⟩
  | .PADD => ⟨false, .point, .point, .point⟩
  | .PMUL => ⟨false, .point, .point, .field⟩
  | .PLDG | .PSETI => ⟨false, .point, .unused, .unused⟩
  | .PMOV => ⟨false, .point, .point, .unused⟩
  | .PSET => ⟨false, .point, .field, .field⟩
  | .PGETX | .PGETY => ⟨false, .field, .point, .unused⟩

/-- The opcode map of 30_encoding.md R86; every value not listed is unassigned. -/
def Op.ofOpc (opc : BitVec 8) : Option Op :=
  match opc.toNat with
  | 0x01 => some .FADD
  | 0x02 => some .FSUB
  | 0x03 => some .FMUL
  | 0x04 => some .FSQR
  | 0x05 => some .FNEG
  | 0x06 => some .FRED
  | 0x07 => some .FINV
  | 0x08 => some .FMOV
  | 0x10 => some .PADD
  | 0x11 => some .PMUL
  | 0x12 => some .PLDG
  | 0x13 => some .PSETI
  | 0x14 => some .PMOV
  | 0x15 => some .PSET
  | 0x16 => some .PGETX
  | 0x17 => some .PGETY
  | _ => none

/-- Whether a 4-bit operand field meets its role (30_encoding.md R84, R85). -/
def Role.admits : Role → BitVec 4 → Bool
  | .field, _ => true
  | .point, v => v.toNat < 8
  | .unused, v => v == 0#4

/-- The fields form a command: the opcode is assigned, both reserved fields are 0, MS is 0 unless
the row leaves it free, and every operand field meets its role (30_encoding.md R84, R85, R87). -/
def Fields.wellFormed (f : Fields) : Bool :=
  match Op.ofOpc f.opc with
  | none => false
  | some op =>
    f.rsv1 == 0#3 && f.rsv0 == 0#8
      && (op.roles.msFree || f.ms == 0#1)
      && op.roles.d.admits f.d && op.roles.a.admits f.a && op.roles.b.admits f.b

/-- Whether an operand of a line has the kind and the range its role asks for: `Rn` with n ≤ 15,
`Pn` with n ≤ 7 (30_encoding.md R90). -/
def AsmOperand.fits : AsmOperand → Role → Bool
  | .r n, .field => n < 16
  | .p n, .point => n < 8
  | _, _ => false

/-- The operands a line must have, in order: the used roles of D, A and B. -/
def Roles.written (r : Roles) : List Role :=
  [r.d, r.a, r.b].filter (· ≠ .unused)

/-- The field commands of 30_encoding.md R86, the ones R90 lets take a suffix. -/
def Op.isField : Op → Bool
  | .FADD | .FSUB | .FMUL | .FSQR | .FNEG | .FRED | .FINV | .FMOV => true
  | .PADD | .PMUL | .PLDG | .PSETI | .PMOV | .PSET | .PGETX | .PGETY => false

/-- Whether a mnemonic may carry a suffix (30_encoding.md R90): none always, `.P` on a field
command, `.Q` on a field command with a modulus (so not on FMOV).  DESIGN CHOICE (log entry 8):
the spec refuses `.Q` by name and does not say whether FMOV may be written with `.P`. -/
def Op.takesSuffix (op : Op) : Option ModSel → Bool
  | none => true
  | some .p => op.isField
  | some .q => op.roles.msFree

/-- An assembler takes the line: its suffix is allowed, and it has one operand of the right kind
and range for each used role (30_encoding.md R90). -/
def AsmLine.wellFormed (l : AsmLine) : Bool :=
  l.op.takesSuffix l.suffix
    && l.operands.length == l.op.roles.written.length
    && (l.operands.zip l.op.roles.written).all fun (o, r) => o.fits r

end Sys2Proof
end

