-- ==== Sys2Proof/Decode.lean ====
section
/-! DEFINITION. The decoder of command words (30_encoding.md R86, R87), total on every 32-bit word,
and the encoder after it (R81).  A word no row matches is ILLEGAL: `decode` answers `none`. -/

namespace Sys2Proof

/-- A row of the opcode map: a word w selects the row when `w & mask == pattern`
(30_encoding.md R86). -/
structure Row where
  op      : Op
  pattern : Word
  mask    : Word
deriving DecidableEq, Repr

/-- The masks and match values of 30_encoding.md R86, in the table's order. -/
def opcodeTable : List Row :=
  [ ⟨.FADD,  0x01000000#32, 0xFF7000FF#32⟩,
    ⟨.FSUB,  0x02000000#32, 0xFF7000FF#32⟩,
    ⟨.FMUL,  0x03000000#32, 0xFF7000FF#32⟩,
    ⟨.FSQR,  0x04000000#32, 0xFF700FFF#32⟩,
    ⟨.FNEG,  0x05000000#32, 0xFF700FFF#32⟩,
    ⟨.FRED,  0x06000000#32, 0xFF700FFF#32⟩,
    ⟨.FINV,  0x07000000#32, 0xFF700FFF#32⟩,
    ⟨.FMOV,  0x08000000#32, 0xFFF00FFF#32⟩ ] ++
  [ ⟨.PADD,  0x10000000#32, 0xFFF888FF#32⟩,
    ⟨.PMUL,  0x11000000#32, 0xFFF880FF#32⟩,
    ⟨.PLDG,  0x12000000#32, 0xFFF8FFFF#32⟩,
    ⟨.PSETI, 0x13000000#32, 0xFFF8FFFF#32⟩,
    ⟨.PMOV,  0x14000000#32, 0xFFF88FFF#32⟩,
    ⟨.PSET,  0x15000000#32, 0xFFF800FF#32⟩,
    ⟨.PGETX, 0x16000000#32, 0xFFF08FFF#32⟩,
    ⟨.PGETY, 0x17000000#32, 0xFFF08FFF#32⟩ ]

/-- The word selects the row. -/
def Row.selects (r : Row) (w : Word) : Bool := w &&& r.mask == r.pattern

/-- MS is bit 23 (30_encoding.md R81). -/
def msOf (w : Word) : ModSel := if w.getLsbD 23 then .q else .p

/-- D, bits 19:16, as a field-register index. -/
def fieldD (w : Word) : FReg := (w.extractLsb' 16 4).toFin
/-- A, bits 15:12, as a field-register index. -/
def fieldA (w : Word) : FReg := (w.extractLsb' 12 4).toFin
/-- B, bits 11:8, as a field-register index. -/
def fieldB (w : Word) : FReg := (w.extractLsb' 8 4).toFin
/-- D as a point-register index: bits 18:16, bit 19 being fixed at 0 by the row. -/
def pointD (w : Word) : PReg := (w.extractLsb' 16 3).toFin
/-- A as a point-register index: bits 14:12. -/
def pointA (w : Word) : PReg := (w.extractLsb' 12 3).toFin
/-- B as a point-register index: bits 10:8. -/
def pointB (w : Word) : PReg := (w.extractLsb' 8 3).toFin

/-- The command record of a word that selects the row of `op` (30_encoding.md R87). -/
def operandsOf (op : Op) (w : Word) : Instr :=
  match op with
  | .FADD  => .fadd (msOf w) (fieldD w) (fieldA w) (fieldB w)
  | .FSUB  => .fsub (msOf w) (fieldD w) (fieldA w) (fieldB w)
  | .FMUL  => .fmul (msOf w) (fieldD w) (fieldA w) (fieldB w)
  | .FSQR  => .fsqr (msOf w) (fieldD w) (fieldA w)
  | .FNEG  => .fneg (msOf w) (fieldD w) (fieldA w)
  | .FRED  => .fred (msOf w) (fieldD w) (fieldA w)
  | .FINV  => .finv (msOf w) (fieldD w) (fieldA w)
  | .FMOV  => .fmov (fieldD w) (fieldA w)
  | .PADD  => .padd (pointD w) (pointA w) (pointB w)
  | .PMUL  => .pmul (pointD w) (pointA w) (fieldB w)
  | .PLDG  => .pldg (pointD w)
  | .PSETI => .pseti (pointD w)
  | .PMOV  => .pmov (pointD w) (pointA w)
  | .PSET  => .pset (pointD w) (fieldA w) (fieldB w)
  | .PGETX => .pgetx (fieldD w) (pointA w)
  | .PGETY => .pgety (fieldD w) (pointA w)

/-- `Decode(w)` (30_encoding.md R87): the first row the word selects, or ILLEGAL (`none`). -/
def decode (w : Word) : Option Instr :=
  (opcodeTable.find? (·.selects w)).map fun r => operandsOf r.op w

/-- The opcode of a mnemonic (30_encoding.md R86). -/
def Op.opc : Op → BitVec 8
  | .FADD  => 0x01#8
  | .FSUB  => 0x02#8
  | .FMUL  => 0x03#8
  | .FSQR  => 0x04#8
  | .FNEG  => 0x05#8
  | .FRED  => 0x06#8
  | .FINV  => 0x07#8
  | .FMOV  => 0x08#8
  | .PADD  => 0x10#8
  | .PMUL  => 0x11#8
  | .PLDG  => 0x12#8
  | .PSETI => 0x13#8
  | .PMOV  => 0x14#8
  | .PSET  => 0x15#8
  | .PGETX => 0x16#8
  | .PGETY => 0x17#8

/-- MS as the bit of the word (30_encoding.md R83). -/
def ModSel.bit : ModSel → BitVec 1
  | .p => 0#1
  | .q => 1#1

/-- A field-register index as an operand field. -/
def FReg.bits (i : FReg) : BitVec 4 := BitVec.ofNat 4 i.val
/-- A point-register index as an operand field: bit 3 is 0 (30_encoding.md R85). -/
def PReg.bits (i : PReg) : BitVec 4 := BitVec.ofNat 4 i.val

/-- The fields of a command's word: its opcode, MS where the command has one, its operands in their
places, and 0 everywhere else (30_encoding.md R81, R82, R84). -/
def Instr.fields : Instr → Fields
  | .fadd ms d a b => ⟨Op.FADD.opc, ms.bit, 0, FReg.bits d, FReg.bits a, FReg.bits b, 0⟩
  | .fsub ms d a b => ⟨Op.FSUB.opc, ms.bit, 0, FReg.bits d, FReg.bits a, FReg.bits b, 0⟩
  | .fmul ms d a b => ⟨Op.FMUL.opc, ms.bit, 0, FReg.bits d, FReg.bits a, FReg.bits b, 0⟩
  | .fsqr ms d a   => ⟨Op.FSQR.opc, ms.bit, 0, FReg.bits d, FReg.bits a, 0, 0⟩
  | .fneg ms d a   => ⟨Op.FNEG.opc, ms.bit, 0, FReg.bits d, FReg.bits a, 0, 0⟩
  | .fred ms d a   => ⟨Op.FRED.opc, ms.bit, 0, FReg.bits d, FReg.bits a, 0, 0⟩
  | .finv ms d a   => ⟨Op.FINV.opc, ms.bit, 0, FReg.bits d, FReg.bits a, 0, 0⟩
  | .fmov d a      => ⟨Op.FMOV.opc, 0, 0, FReg.bits d, FReg.bits a, 0, 0⟩
  | .padd d a b    => ⟨Op.PADD.opc, 0, 0, PReg.bits d, PReg.bits a, PReg.bits b, 0⟩
  | .pmul d a b    => ⟨Op.PMUL.opc, 0, 0, PReg.bits d, PReg.bits a, FReg.bits b, 0⟩
  | .pldg d        => ⟨Op.PLDG.opc, 0, 0, PReg.bits d, 0, 0, 0⟩
  | .pseti d       => ⟨Op.PSETI.opc, 0, 0, PReg.bits d, 0, 0, 0⟩
  | .pmov d a      => ⟨Op.PMOV.opc, 0, 0, PReg.bits d, PReg.bits a, 0, 0⟩
  | .pset d a b    => ⟨Op.PSET.opc, 0, 0, PReg.bits d, FReg.bits a, FReg.bits b, 0⟩
  | .pgetx d a     => ⟨Op.PGETX.opc, 0, 0, FReg.bits d, PReg.bits a, 0, 0⟩
  | .pgety d a     => ⟨Op.PGETY.opc, 0, 0, FReg.bits d, PReg.bits a, 0, 0⟩

/-- The word of the fields, OPC in bits 31:24 down to RSV0 in bits 7:0 (30_encoding.md R81). -/
def Fields.toWord (f : Fields) : Word :=
  f.opc.setWidth 32 <<< 24 ||| f.ms.setWidth 32 <<< 23 ||| f.rsv1.setWidth 32 <<< 20
    ||| f.d.setWidth 32 <<< 16 ||| f.a.setWidth 32 <<< 12 ||| f.b.setWidth 32 <<< 8
    ||| f.rsv0.setWidth 32

/-- The fields of a word (30_encoding.md R81). -/
def Fields.ofWord (w : Word) : Fields where
  opc  := w.extractLsb' 24 8
  ms   := w.extractLsb' 23 1
  rsv1 := w.extractLsb' 20 3
  d    := w.extractLsb' 16 4
  a    := w.extractLsb' 12 4
  b    := w.extractLsb' 8 4
  rsv0 := w.extractLsb' 0 8

/-- The word of a command (`enc(INSN)`, 30_encoding.md R92). -/
def encode (i : Instr) : Word := i.fields.toWord

/-- A command is well-formed when the fields of its word pass the checks of R82 to R85.  Every term
of `Instr` is (`Laws.EncodeWellFormed`): its types admit no other. -/
def Instr.wellFormed (i : Instr) : Bool := (Fields.ofWord (encode i)).wellFormed

/-- The bits an opcode-table row gives a word, as CORE's one 32-bit command word; every bit from
`nbits` on is 0.  CORE has no byte order: the command is one bus word (20_memory.md R63). -/
def tableWord (nbits w : Nat) : Word := BitVec.ofNat 32 (w % 2 ^ nbits)

/-- The command the decoder reads from a table word. -/
def decodeTableWord (nbits w : Nat) : Option Instr := decode (tableWord nbits w)

/-- The modulus select of a line: its suffix, or `.P` with none (30_encoding.md R90). -/
def AsmLine.ms (l : AsmLine) : ModSel := l.suffix.getD .p

/-- The command a line stands for, operands destination first; `none` where an assembler refuses
the line (30_encoding.md R90). -/
def assemble (l : AsmLine) : Option Instr :=
  if l.wellFormed = false then none else
  match l.op, l.operands with
  | .FADD,  [.r d, .r a, .r b] => some (.fadd l.ms (Fin.ofNat 16 d) (Fin.ofNat 16 a) (Fin.ofNat 16 b))
  | .FSUB,  [.r d, .r a, .r b] => some (.fsub l.ms (Fin.ofNat 16 d) (Fin.ofNat 16 a) (Fin.ofNat 16 b))
  | .FMUL,  [.r d, .r a, .r b] => some (.fmul l.ms (Fin.ofNat 16 d) (Fin.ofNat 16 a) (Fin.ofNat 16 b))
  | .FSQR,  [.r d, .r a] => some (.fsqr l.ms (Fin.ofNat 16 d) (Fin.ofNat 16 a))
  | .FNEG,  [.r d, .r a] => some (.fneg l.ms (Fin.ofNat 16 d) (Fin.ofNat 16 a))
  | .FRED,  [.r d, .r a] => some (.fred l.ms (Fin.ofNat 16 d) (Fin.ofNat 16 a))
  | .FINV,  [.r d, .r a] => some (.finv l.ms (Fin.ofNat 16 d) (Fin.ofNat 16 a))
  | .FMOV,  [.r d, .r a] => some (.fmov (Fin.ofNat 16 d) (Fin.ofNat 16 a))
  | .PADD,  [.p d, .p a, .p b] => some (.padd (Fin.ofNat 8 d) (Fin.ofNat 8 a) (Fin.ofNat 8 b))
  | .PMUL,  [.p d, .p a, .r b] => some (.pmul (Fin.ofNat 8 d) (Fin.ofNat 8 a) (Fin.ofNat 16 b))
  | .PLDG,  [.p d] => some (.pldg (Fin.ofNat 8 d))
  | .PSETI, [.p d] => some (.pseti (Fin.ofNat 8 d))
  | .PMOV,  [.p d, .p a] => some (.pmov (Fin.ofNat 8 d) (Fin.ofNat 8 a))
  | .PSET,  [.p d, .r a, .r b] => some (.pset (Fin.ofNat 8 d) (Fin.ofNat 16 a) (Fin.ofNat 16 b))
  | .PGETX, [.r d, .p a] => some (.pgetx (Fin.ofNat 16 d) (Fin.ofNat 8 a))
  | .PGETY, [.r d, .p a] => some (.pgety (Fin.ofNat 16 d) (Fin.ofNat 8 a))
  | _, _ => none

end Sys2Proof
end

