-- ==== Sys2Proof/Machine/Arith.lean ====
section
/-! DEFINITION. Prime-field arithmetic on unbounded integers (00_scope.md R9, R10) and the modular
inverse by the extended Euclidean algorithm (40_field.md R102, R104). -/

namespace Sys2Proof.Machine

/-- `a mod m`, the non-negative residue of a possibly negative integer (00_scope.md R10).
The spec defines it for m ≥ 2, which every accepted command has; below that it is Lean's remainder
(DESIGN CHOICE, log entry 15). -/
def residue (a : Int) (m : Nat) : Nat := (a % (m : Int)).toNat

/-- The loop of 40_field.md R104 on (r0, r1) and (s0, s1).  Each turn replaces r1 by a smaller
remainder, so fuel of at least r1 never runs out. -/
def euclid : Nat → Nat → Nat → Int → Int → Nat × Int
  | 0, r0, _, s0, _ => (r0, s0)
  | fuel + 1, r0, r1, s0, s1 =>
    if r1 = 0 then (r0, s0)
    else
      let qt := r0 / r1
      euclid fuel r1 (r0 - qt * r1) s1 (s0 - (qt : Int) * s1)

/-- `inv_M(v)` (40_field.md R102), by the algorithm of R104. -/
def invMod (m : Nat) (v : Int) : Option Nat :=
  let (g, s) := euclid m m (residue v m) 0 1
  if g = 1 then some (residue s m) else none

/-- A result as a register value: a residue below M fits, because M < 2^W (00_scope.md R9). -/
def toVal (n : Nat) : Val := BitVec.ofNat 512 n

/-- `(a + b) mod M` (40_field.md R111). -/
def addMod (m a b : Val) : Val := toVal (residue ((a.toNat : Int) + b.toNat) m.toNat)

/-- `(a - b) mod M` (40_field.md R112). -/
def subMod (m a b : Val) : Val := toVal (residue ((a.toNat : Int) - b.toNat) m.toNat)

/-- `(a · b) mod M` (40_field.md R113). -/
def mulMod (m a b : Val) : Val := toVal (residue ((a.toNat : Int) * b.toNat) m.toNat)

/-- `(0 - a) mod M` (40_field.md R115). -/
def negMod (m a : Val) : Val := toVal (residue (0 - (a.toNat : Int)) m.toNat)

/-- `a mod M` (40_field.md R116). -/
def redMod (m a : Val) : Val := toVal (residue a.toNat m.toNat)

/-- `inv_M(a)` of a register value (40_field.md R117). -/
def invVal (m a : Val) : Option Val := (invMod m.toNat a.toNat).map toVal

end Sys2Proof.Machine
end

