-- ==== Sys2Proof/Config.lean ====
section
/-! DEFINITION. What one implementation of CORE fixes (00_scope.md R6), and the one value the spec
leaves free on every use (20_memory.md R60). -/

namespace Sys2Proof

/-- The operand width W: 512 by default, 256 the only other legal value (00_scope.md R6).  The
width of an instance stands in `State.width`, which no step changes, so that a statement about
every state is a statement about both widths (DESIGN CHOICE, log entry 4). -/
inductive Width where
  | w256
  | w512
deriving DecidableEq, Repr

/-- W in bits. -/
def Width.bits : Width → Nat
  | .w256 => 256
  | .w512 => 512

/-- K = W/32, the live words of one operand window (00_scope.md R6). -/
def Width.words : Width → Nat
  | .w256 => 8
  | .w512 => 16

/-- `ANY32` (00_scope.md R11): the value the n-th unspecified bus read of a run returns
(20_memory.md R60, 70_reset_and_hazards.md R200).  It has no body, so no claim can rest on a value
of it; `State.draws` counts the uses, so each use is a fresh value (DESIGN CHOICE, log entry 5). -/
opaque Config.any32 : Nat → Word

end Sys2Proof
end

