-- ==== Sys2Proof/Machine/State.lean ====
section
/-! DEFINITION. What a state of the machine holds: the registers of CORE (10_state.md), the command
in flight (10_state.md R41), the reset input, and what the outside world does next. -/

namespace Sys2Proof.Machine

/-- A point value {X, Y, INF} (00_scope.md R12). -/
structure Point where
  x   : Val
  y   : Val
  inf : Bool
deriving DecidableEq, Repr

/-- `IDENTITY = {X = 0, Y = 0, INF = 1}` (10_state.md R23). -/
def Point.identity : Point := ⟨BitVec.zero 512, BitVec.zero 512, true⟩

/-- The seven configuration registers, the source's CurveGroup record (10_state.md R24). -/
structure CurveRegs where
  p  : Val
  a  : Val
  b  : Val
  m  : Val
  q  : Val
  gx : Val
  gy : Val
deriving DecidableEq, Repr

/-- The error codes of STATUS.ERR that CORE produces (10_state.md R30, 60_exceptions.md R171). -/
inductive ErrCode where
  | ok
  | illegal
  | modulus
deriving DecidableEq, Repr

/-- The fields of STATUS (10_state.md R27), less BUSY, which is 1 exactly when there is a command in
flight (10_state.md R41) and is computed from it (`State.busy`). -/
structure Status where
  done   : Bool
  err    : ErrCode
  z      : Bool
  id     : Bool
  ni     : Bool
  cmdovf : Bool
  werr   : Bool
deriving DecidableEq, Repr

/-- The snapshot `snap` (10_state.md R41, 20_memory.md R65): the values a command reads, copied when
it is accepted.  A value the command does not read is not copied; its place holds 0 or IDENTITY
(DESIGN CHOICE, log entry 14). -/
structure Snapshot where
  /-- The selected modulus, cfg.P or cfg.Q. -/
  modulus : Val := BitVec.zero 512
  /-- cfg.A. -/
  coeffA : Val := BitVec.zero 512
  /-- cfg.GX. -/
  gx : Val := BitVec.zero 512
  /-- cfg.GY. -/
  gy : Val := BitVec.zero 512
  /-- x[A]. -/
  xa : Val := BitVec.zero 512
  /-- x[B]. -/
  xb : Val := BitVec.zero 512
  /-- pt[A]. -/
  pa : Point := Point.identity
  /-- pt[B]. -/
  pb : Point := Point.identity
deriving DecidableEq, Repr

/-- PMUL's accumulator, template and remaining scalar, part of the record in flight
(10_state.md R41, 41_point.md R140).  Other commands leave them at rest.  They keep their starting
values until the one completion step (DEDUCED, log entry 12). -/
structure MulWork where
  acc  : Point := Point.identity
  tmpl : Point := Point.identity
  n    : Val := BitVec.zero 512
deriving DecidableEq, Repr

/-- The in-flight record {op, ms, d, a, b, snap} (10_state.md R41). -/
structure Inflight where
  cmd  : Instr
  snap : Snapshot
  work : MulWork
deriving DecidableEq, Repr

/-- What the outside world does next, and when the sequencer moves: one list of these is a whole
interleaving of the two agents (00_scope.md R3, 60_exceptions.md R182). -/
inductive Event where
  /-- The host reads the word at an offset: `MemRead(off, 4)`. -/
  | read (off : Offset)
  /-- The host writes a word at an offset: `MemWrite(off, 4, v)`. -/
  | write (off : Offset) (v : Word)
  /-- The sequencer moves: `Complete()`, if a command is in flight. -/
  | sequencer
  /-- The platform asserts (`true`) or releases (`false`) the reset input `rst`. -/
  | rst (asserted : Bool)
deriving DecidableEq, Repr

/-- The two agents (00_scope.md R3).  The platform's reset input counts with the host. -/
inductive Agent where
  | host
  | sequencer
deriving DecidableEq, Repr

/-- The state of the machine. -/
structure State where
  /-- The instance's operand width W (00_scope.md R6): a parameter, which no step changes. -/
  width : Width
  /-- R0 to R15 (10_state.md R20). -/
  fieldRegs : Vector Val 16
  /-- P0 to P7 (10_state.md R22). -/
  pointRegs : Vector Point 8
  /-- cfg.P, cfg.A, cfg.B, cfg.M, cfg.Q, cfg.GX, cfg.GY (10_state.md R24). -/
  cfg : CurveRegs
  /-- STATUS (10_state.md R27). -/
  status : Status
  /-- CTRL.IE (10_state.md R36). -/
  ie : Bool
  /-- CMDLOG (10_state.md R39). -/
  cmdlog : Word
  /-- The command in flight (10_state.md R41); none when BUSY = 0. -/
  inflight : Option Inflight
  /-- Whether the reset input `rst` is asserted (70_reset_and_hazards.md R200). -/
  rst : Bool
  /-- The model's own: the moves to come, first one first.  Not a register of CORE. -/
  inbox : List Event
  /-- The model's own: the word the last bus read returned, which the host took. -/
  rdata : Word
  /-- The model's own: how many unspecified words have been drawn (`Config.any32`). -/
  draws : Nat
deriving DecidableEq, Repr

/-- Why a step could fault.  There is no constructor: CORE has no trap mechanism, and it reports
every condition in STATUS, which is a next state (60_exceptions.md R170).  Safe: nothing raises one. -/
inductive Fault where
deriving DecidableEq, Repr

/-- Why a step could be refused. -/
inductive Refusal where
  /-- Raised only by an arm of `exec` whose command has no meaning yet; no arm does.  Safe. -/
  | notModelled (mnemonic : String)
deriving DecidableEq, Repr

/-- The values after reset (10_state.md R43), in an instance of the default width W = 512
(00_scope.md R6), with `rst` released and nothing for the host to do; the model's own fields are at
values it chose (DESIGN CHOICE, log entries 4 and 6). -/
def State.reset : State where
  width := .w512
  fieldRegs := Vector.replicate 16 (BitVec.zero 512)
  pointRegs := Vector.replicate 8 Point.identity
  cfg := ⟨.zero 512, .zero 512, .zero 512, .zero 512, .zero 512, .zero 512, .zero 512⟩
  status := ⟨false, .ok, false, false, false, false, false⟩
  ie := false
  cmdlog := 0
  inflight := none
  rst := false
  inbox := []
  rdata := 0
  draws := 0

end Sys2Proof.Machine
end

