-- ==== Sys2Proof/Machine/Curve.lean ====
section
/-! DEFINITION. The group law on affine points (41_point.md R132) and double-and-add
(41_point.md R140). -/

namespace Sys2Proof.Machine

/-- The slope's numerator and denominator for two points with coordinates, on the raw stored
values: the chord for points distinct as stored, the tangent for equal ones
(41_point.md R132, R135). -/
def chordOrTangent (a : Val) (u v : Point) : Int × Int :=
  if u.x = v.x ∧ u.y = v.y then
    (3 * (u.x.toNat : Int) * u.x.toNat + a.toNat, 2 * (u.y.toNat : Int))
  else
    ((v.y.toNat : Int) - u.y.toNat, (v.x.toNat : Int) - u.x.toNat)

/-- The third point of slope `lam` through u and v (41_point.md R132). -/
def thirdPoint (p : Nat) (lam : Int) (u v : Point) : Point :=
  let x3 := residue (lam * lam - u.x.toNat - v.x.toNat) p
  let y3 := residue (lam * ((u.x.toNat : Int) - x3) - u.y.toNat) p
  ⟨toVal x3, toVal y3, false⟩

/-- `AddPoints(U, V)` with p = cfg.P and a = cfg.A from the snapshot (41_point.md R132).  A
denominator without an inverse gives IDENTITY, which is no error (R133); an identity operand gives
the other operand as stored (R134). -/
def addPoints (p a : Val) (u v : Point) : Point :=
  if u.inf then v
  else if v.inf then u
  else
    let (num, den) := chordOrTangent a u v
    match invMod p.toNat den with
    | none => Point.identity
    | some i => thirdPoint p.toNat (residue (num * i) p.toNat) u v

/-- The loop of `ScalarMultiply` from an accumulator, a template and a remaining scalar
(41_point.md R140).  Each turn halves n, so fuel of at least n's bit length never runs out. -/
def mulLoop (p a : Val) : Nat → Point → Point → Nat → Point
  | 0, acc, _, _ => acc
  | fuel + 1, acc, tmpl, n =>
    if n = 0 then acc
    else
      mulLoop p a fuel (if n % 2 = 1 then addPoints p a acc tmpl else acc)
        (addPoints p a tmpl tmpl) (n / 2)

/-- Carry PMUL's working record to the end: at most W turns, W ≤ 512 (41_point.md R140, R143). -/
def MulWork.finish (p a : Val) (w : MulWork) : Point := mulLoop p a 512 w.acc w.tmpl w.n.toNat

/-- The working record PMUL starts from: the accumulator at the identity, the template at the
point, the whole scalar (41_point.md R140). -/
def MulWork.start (t0 : Point) (n : Val) : MulWork := ⟨Point.identity, t0, n⟩

/-- `ScalarMultiply(T0, n)` (41_point.md R140). -/
def scalarMultiply (p a : Val) (t0 : Point) (n : Val) : Point := (MulWork.start t0 n).finish p a

end Sys2Proof.Machine
end

