-- ==== Sys2Proof/Machine/Operands.lean ====
section
/-! DEFINITION. Reading and writing registers: by index, through the modulus select, and word by
word through a bus window (10_state.md R20 to R26, 20_memory.md R53, R54). -/

namespace Sys2Proof.Machine

/-- `x[i]` (00_scope.md R11). -/
def State.x (s : State) (i : FReg) : Val := s.fieldRegs[i.val]

/-- `x[i] <- v`. -/
def State.setX (s : State) (i : FReg) (v : Val) : State :=
  { s with fieldRegs := s.fieldRegs.set i.val v }

/-- `pt[i]` (00_scope.md R11). -/
def State.pt (s : State) (i : PReg) : Point := s.pointRegs[i.val]

/-- `pt[i] <- u`. -/
def State.setPt (s : State) (i : PReg) (u : Point) : State :=
  { s with pointRegs := s.pointRegs.set i.val u }

/-- `sel(MS)`: cfg.P for MS = 0, cfg.Q for MS = 1 (40_field.md R119). -/
def State.sel (s : State) : ModSel → Val
  | .p => s.cfg.p
  | .q => s.cfg.q

end Sys2Proof.Machine

namespace Sys2Proof

/-- The modulus a command needs, if it needs one: `usesModulus(c)` and `modulus(c)` of
20_memory.md R64. -/
def Instr.modSel : Instr → Option ModSel
  | .fadd ms _ _ _ | .fsub ms _ _ _ | .fmul ms _ _ _ => some ms
  | .fsqr ms _ _ | .fneg ms _ _ | .fred ms _ _ | .finv ms _ _ => some ms
  | .padd _ _ _ | .pmul _ _ _ => some .p
  | .fmov _ _ | .pldg _ | .pseti _ | .pmov _ _ | .pset _ _ _ | .pgetx _ _ | .pgety _ _ => none

end Sys2Proof

namespace Sys2Proof.Machine

/-- The command needs a modulus and the one it selects is below 2 (60_exceptions.md R173). -/
def State.lacksModulus (s : State) (c : Instr) : Bool :=
  match c.modSel with
  | some ms => (s.sel ms).toNat < 2
  | none => false

/-- The configuration registers by name (10_state.md R24). -/
inductive CfgReg where
  | P | A | B | M | Q | GX | GY
deriving DecidableEq, Repr

/-- A register the host reaches through a bus window (20_memory.md R53). -/
inductive WindowReg where
  | cfg (c : CfgReg)
  | field (i : FReg)
deriving DecidableEq, Repr

/-- `cfg.c`. -/
def State.cfgReg (s : State) : CfgReg → Val
  | .P => s.cfg.p
  | .A => s.cfg.a
  | .B => s.cfg.b
  | .M => s.cfg.m
  | .Q => s.cfg.q
  | .GX => s.cfg.gx
  | .GY => s.cfg.gy

/-- `cfg.c <- v`. -/
def State.setCfgReg (s : State) (c : CfgReg) (v : Val) : State :=
  match c with
  | .P => { s with cfg := { s.cfg with p := v } }
  | .A => { s with cfg := { s.cfg with a := v } }
  | .B => { s with cfg := { s.cfg with b := v } }
  | .M => { s with cfg := { s.cfg with m := v } }
  | .Q => { s with cfg := { s.cfg with q := v } }
  | .GX => { s with cfg := { s.cfg with gx := v } }
  | .GY => { s with cfg := { s.cfg with gy := v } }

/-- The value of a register with a window. -/
def State.windowReg (s : State) : WindowReg → Val
  | .cfg c => s.cfgReg c
  | .field i => s.x i

/-- Write a register with a window, whole. -/
def State.setWindowReg (s : State) (r : WindowReg) (v : Val) : State :=
  match r with
  | .cfg c => s.setCfgReg c v
  | .field i => s.setX i v

/-- `base(r)`, the offset of a window's first word (20_memory.md R53). -/
def WindowReg.base : WindowReg → Nat
  | .cfg .P => 0x100
  | .cfg .A => 0x140
  | .cfg .B => 0x180
  | .cfg .M => 0x1C0
  | .cfg .Q => 0x200
  | .cfg .GX => 0x240
  | .cfg .GY => 0x280
  | .field i => 0x400 + 0x40 * i.val

/-- Every register with a window, in the order of the register map. -/
def windowRegs : List WindowReg :=
  [.cfg .P, .cfg .A, .cfg .B, .cfg .M, .cfg .Q, .cfg .GX, .cfg .GY]
    ++ (List.finRange 16).map .field

/-- `window(r, k)` matches when `base(r) ≤ o < base(r) + 0x40`, and then `k = (o - base(r)) / 4`
(20_memory.md R57); `none` when no window does. -/
def windowAt (o : Nat) : Option (WindowReg × Nat) :=
  (windowRegs.find? fun r => r.base ≤ o && o < r.base + 0x40).map fun r => (r, (o - r.base) / 4)

/-- `v[32k+31 : 32k]`, word k of a register value (20_memory.md R54). -/
def wordOf (v : Val) (k : Nat) : Word := v.extractLsb' (32 * k) 32

/-- `v` with word k replaced by `w` and every other bit unchanged (20_memory.md R58). -/
def putWord (v : Val) (k : Nat) (w : Word) : Val :=
  (v &&& ~~~((BitVec.allOnes 32).setWidth 512 <<< (32 * k))) ||| (w.setWidth 512 <<< (32 * k))

/-- The word an access at `off` reaches: bits [1:0] are ignored (20_memory.md R52). -/
def wordOffset (off : Offset) : Nat := (off &&& 0xFFC#12).toNat

/-- The offset a host address has in the window at `base`, if it lies in it: BASE_ADDR is the
platform's, and a model takes it as an argument (20_memory.md R50, R51). -/
def offsetOf (base addr : Nat) : Option Offset :=
  if base ≤ addr ∧ addr < base + 0x1000 then some (BitVec.ofNat 12 (addr - base)) else none

end Sys2Proof.Machine
end

