-- ==== Sys2Proof/Machine/Flags.lean ====
section
/-! DEFINITION. What a command's completion writes: one destination register and the flags Z, ID
and NI (20_memory.md R66, 10_state.md R31 to R33). -/

namespace Sys2Proof.Machine

/-- The one destination of a command and the value it gets (20_memory.md R66). -/
inductive Dest where
  | field (d : FReg) (v : Val)
  | point (d : PReg) (u : Point)
deriving DecidableEq, Repr

/-- `(dest, val, z, id, ni)`, what `Exec` returns (20_memory.md R66). -/
structure Result where
  dest : Dest
  z    : Bool
  id   : Bool
  ni   : Bool
deriving DecidableEq, Repr

/-- A field command's result: Z <- (result == 0), ID <- 0, NI <- 0 (40_field.md R105). -/
def fieldResult (d : FReg) (v : Val) : Result := ⟨.field d v, v == 0, false, false⟩

/-- FINV's result: the inverse with NI = 0, or 0 with Z = 1 and NI = 1 (40_field.md R117). -/
def inverseResult (d : FReg) : Option Val → Result
  | some u => ⟨.field d u, false, false, false⟩
  | none => ⟨.field d 0, true, false, true⟩

/-- The result of a command that produces a point: Z <- 0, ID <- its INF bit, NI <- 0
(41_point.md R131). -/
def pointResult (d : PReg) (u : Point) : Result := ⟨.point d u, false, u.inf, false⟩

/-- The result of PGETX and PGETY: 0 for the identity and the coordinate otherwise, ID <- the
source's INF bit, Z <- (x[d] == 0), NI <- 0 (41_point.md R156, R157). -/
def coordResult (d : FReg) (src : Point) (coord : Val) : Result :=
  let v := if src.inf then 0 else coord
  ⟨.field d v, v == 0, src.inf, false⟩

/-- `write val to dest` (20_memory.md R66). -/
def State.write (s : State) : Dest → State
  | .field d v => s.setX d v
  | .point d u => s.setPt d u

/-- `STATUS.Z <- z; STATUS.ID <- id; STATUS.NI <- ni` (20_memory.md R66). -/
def Status.withFlags (t : Status) (z id ni : Bool) : Status := { t with z := z, id := id, ni := ni }

/-- The code of an error as STATUS.ERR shows it (60_exceptions.md R171). -/
def ErrCode.bits : ErrCode → BitVec 4
  | .ok => 0#4
  | .illegal => 1#4
  | .modulus => 2#4

end Sys2Proof.Machine
end

