-- ==== Sys2Proof/Machine/Ops.lean ====
section
/-! DEFINITION. The shared operations of CORE: whose turn it is, reset, raising a command error,
issuing a command, and completing one (20_memory.md R64 to R66, 60_exceptions.md R178,
70_reset_and_hazards.md R201). -/

namespace Sys2Proof.Machine

/-- STATUS.BUSY: 1 while a command is in flight (10_state.md R28, R41; DEDUCED, log entry 13). -/
def State.busy (s : State) : Bool := s.inflight.isSome

/-- `IRQ = CTRL.IE & STATUS.DONE`, a level signal with no state of its own (10_state.md R42,
60_exceptions.md R180). -/
def State.irq (s : State) : Bool := s.ie && s.status.done

/-- Whose move comes first in the inbox.  The order is data of the state, so both orders of a race
are states of the model (60_exceptions.md R182).  With nothing left in the inbox a command in flight
completes, which is the progress of 20_memory.md R67 (DESIGN CHOICE, log entry 2). -/
def State.turn (s : State) : Agent :=
  match s.inbox with
  | .sequencer :: _ => .sequencer
  | [] => if s.busy then .sequencer else .host
  | _ => .host

/-- `Reset()` (70_reset_and_hazards.md R201): every piece of CORE's state at its value after reset
and the command in flight discarded.  The width, the reset input and the model's own fields are not
CORE's registers and stay. -/
def State.resetCore (s : State) : State :=
  { State.reset with
    width := s.width, rst := s.rst, inbox := s.inbox, rdata := s.rdata, draws := s.draws }

/-- `raise CmdError(code)`: STATUS.ERR <- code, STATUS.DONE <- 1, and nothing else changes
(60_exceptions.md R178).  This is all there is of exception entry: CORE has no trap (R170, R183). -/
def State.raise (s : State) (code : ErrCode) : State :=
  { s with status := { s.status with err := code, done := true } }

/-- What accepting a word for decoding does before any check: CMDLOG <- w, DONE <- 0, ERR <- 0
(20_memory.md R64). -/
def State.acceptWord (s : State) (w : Word) : State :=
  { s with cmdlog := w, status := { s.status with done := false, err := .ok } }

/-- A CMD write while BUSY = 1 is dropped: CMDOVF <- 1 (60_exceptions.md R174). -/
def State.dropCommand (s : State) : State :=
  { s with status := { s.status with cmdovf := true } }

/-- `Sample(c)` (20_memory.md R65): every register value command c reads, and no other
(10_state.md R21, R22, R24). -/
def State.sample (s : State) : Instr → Snapshot
  | .fadd ms _ a b => { modulus := s.sel ms, xa := s.x a, xb := s.x b }
  | .fsub ms _ a b => { modulus := s.sel ms, xa := s.x a, xb := s.x b }
  | .fmul ms _ a b => { modulus := s.sel ms, xa := s.x a, xb := s.x b }
  | .fsqr ms _ a => { modulus := s.sel ms, xa := s.x a }
  | .fneg ms _ a => { modulus := s.sel ms, xa := s.x a }
  | .fred ms _ a => { modulus := s.sel ms, xa := s.x a }
  | .finv ms _ a => { modulus := s.sel ms, xa := s.x a }
  | .fmov _ a => { xa := s.x a }
  | .padd _ a b => { modulus := s.cfg.p, coeffA := s.cfg.a, pa := s.pt a, pb := s.pt b }
  | .pmul _ a b => { modulus := s.cfg.p, coeffA := s.cfg.a, pa := s.pt a, xb := s.x b }
  | .pldg _ => { gx := s.cfg.gx, gy := s.cfg.gy }
  | .pseti _ => {}
  | .pmov _ a => { pa := s.pt a }
  | .pset _ a b => { xa := s.x a, xb := s.x b }
  | .pgetx _ a => { pa := s.pt a }
  | .pgety _ a => { pa := s.pt a }

/-- The working record a command starts from: for PMUL that of `ScalarMultiply`, for every other
command the one at rest (10_state.md R41, 41_point.md R140). -/
def Snapshot.startWork (snap : Snapshot) : Instr → MulWork
  | .pmul _ _ _ => MulWork.start snap.pa snap.xb
  | .fadd _ _ _ _ | .fsub _ _ _ _ | .fmul _ _ _ _ | .fsqr _ _ _ | .fneg _ _ _ | .fred _ _ _
  | .finv _ _ _ | .fmov _ _ | .padd _ _ _ | .pldg _ | .pseti _ | .pmov _ _ | .pset _ _ _
  | .pgetx _ _ | .pgety _ _ => {}

/-- The in-flight record of a command accepted now (10_state.md R41, 20_memory.md R64). -/
def State.record (s : State) (c : Instr) : Inflight := ⟨c, s.sample c, (s.sample c).startWork c⟩

/-- `IssueCommand(w)` (20_memory.md R64), where the word decodes to `c`, or to no command (`none`).
The checks and their order are those of 60_exceptions.md R179. -/
def State.issue (s : State) (w : Word) (c : Option Instr) : State :=
  if s.busy then s.dropCommand
  else
    match c with
    | none => (s.acceptWord w).raise .illegal
    | some c =>
      if s.lacksModulus c then (s.acceptWord w).raise .modulus
      else { s.acceptWord w with inflight := some (s.record c) }

/-- The effect of `Complete()` once `Exec` has given its result (20_memory.md R66): the destination
and the three flags are written, the record is dropped and DONE is set, all in one step. -/
def State.complete (s : State) (r : Result) : State :=
  { s.write r.dest with
    status := { s.status.withFlags r.z r.id r.ni with done := true }, inflight := none }

/-- A command's part in one step, for the agent whose turn it is.  On the host's turn the host
writes the command's word to CMD (`IssueCommand`, 20_memory.md R64).  On the sequencer's turn the
command, if it is the one in flight, completes with what `result` makes of its record (`Complete`,
20_memory.md R66); otherwise the sequencer has no step to take and nothing changes.  DESIGN CHOICE,
log entry 1. -/
def runCommand (c : Instr) (result : Inflight → Result) (s : State) :
    Host.Outcome State Fault Refusal :=
  match s.turn with
  | .host => .next (s.issue (encode c) (some c))
  | .sequencer =>
    match s.inflight with
    | some r => if r.cmd = c then .next (s.complete (result r)) else .next s
    | none => .next s

end Sys2Proof.Machine
end

