-- ==== Sys2Proof/Machine/Bus.lean ====
section
/-! DEFINITION. The host's side: bus reads and writes (20_memory.md R57, R58), the reset input
(70_reset_and_hazards.md R200), and which command, if any, a step runs. -/

namespace Sys2Proof.Machine

/-- ID = 0x4543_0000 | W (10_state.md R37). -/
def State.idWord (s : State) : Word := 0x45430000#32 ||| BitVec.ofNat 32 s.width.bits

/-- CTRL as read: zext_32({CTRL.IE, 0}) (20_memory.md R57). -/
def State.ctrlWord (s : State) : Word := (BitVec.ofBool s.ie ++ 0#1).setWidth 32

/-- STATUS as read: zext_32({WERR, CMDOVF, NI, ID, Z, ERR[3:0], 0b00, DONE, BUSY})
(20_memory.md R57). -/
def State.statusWord (s : State) : Word :=
  (BitVec.ofBool s.status.werr ++ BitVec.ofBool s.status.cmdovf ++ BitVec.ofBool s.status.ni
    ++ BitVec.ofBool s.status.id ++ BitVec.ofBool s.status.z ++ s.status.err.bits ++ 0#2
    ++ BitVec.ofBool s.status.done ++ BitVec.ofBool s.busy).setWidth 32

/-- The word a bus read out of reset returns (20_memory.md R57); `none` where it is unspecified, a
live window word while BUSY = 1 (R60).  Reserved offsets read as 0 (R56). -/
def State.peek (s : State) (off : Offset) : Option Word :=
  match wordOffset off with
  | 0x000 => some s.idWord
  | 0x004 => some s.ctrlWord
  | 0x008 => some s.statusWord
  | 0x00C => some 0
  | 0x010 => some s.cmdlog
  | o =>
    match windowAt o with
    | none => some 0
    | some (r, k) =>
      if s.width.words ≤ k then some 0
      else if s.busy then none
      else some (wordOf (s.windowReg r) k)

/-- The host's bus read: the word goes to the host and no register of CORE changes
(20_memory.md R61).  An unspecified word is a fresh free value; while `rst` is asserted every word
read is one (70_reset_and_hazards.md R200). -/
def State.busRead (s : State) (off : Offset) : State :=
  match (if s.rst then none else s.peek off) with
  | some w => { s with rdata := w }
  | none => { s with rdata := Config.any32 s.draws, draws := s.draws + 1 }

/-- A CTRL write: SRST = 1 resets and the IE bit of the write is discarded; otherwise IE <- v[1]
(10_state.md R36, 20_memory.md R58). -/
def State.writeCtrl (s : State) (v : Word) : State :=
  if v.getLsbD 0 then s.resetCore else { s with ie := v.getLsbD 1 }

/-- A STATUS write: each of DONE, CMDOVF and WERR is cleared where the written bit is 1, and every
other bit is unchanged (10_state.md R27, 20_memory.md R58). -/
def State.writeStatus (s : State) (v : Word) : State :=
  { s with
    status := { s.status with
      done := s.status.done && !v.getLsbD 1
      cmdovf := s.status.cmdovf && !v.getLsbD 11
      werr := s.status.werr && !v.getLsbD 12 } }

/-- A write of word k of a window: nothing for a word beyond K, dropped with WERR = 1 while BUSY = 1,
and otherwise that word of the register is replaced (20_memory.md R55, R58, R59). -/
def State.writeWindow (s : State) (r : WindowReg) (k : Nat) (v : Word) : State :=
  if s.width.words ≤ k then s
  else if s.busy then { s with status := { s.status with werr := true } }
  else s.setWindowReg r (putWord (s.windowReg r) k v)

/-- A CMD write of a word that no row of the opcode map matches (20_memory.md R64).  A word that
decodes is run by `exec` (`State.fetch`), and this function leaves it alone. -/
def State.writeCmd (s : State) (v : Word) : State :=
  match decode v with
  | none => s.issue v none
  | some _ => s

/-- The host's bus write, `MemWrite(off, 4, v)` (20_memory.md R58), but for a CMD write of a command.
Every write is ignored while `rst` is asserted (70_reset_and_hazards.md R200). -/
def State.busWrite (s : State) (off : Offset) (v : Word) : State :=
  if s.rst then s
  else
    match wordOffset off with
    | 0x004 => s.writeCtrl v
    | 0x008 => s.writeStatus v
    | 0x00C => s.writeCmd v
    | o =>
      match windowAt o with
      | some (r, k) => s.writeWindow r k v
      | none => s

/-- The level of the reset input changes or stays (70_reset_and_hazards.md R200).  While it is
asserted CORE is held in reset, so the first access after the release sees the reset state (R203).
DEDUCED, log entry 7. -/
def State.driveRst (s : State) (asserted : Bool) : State :=
  if asserted || s.rst then { s.resetCore with rst := asserted } else s

/-- The word the host writes to CMD in this step, if it does and CORE is out of reset. -/
def State.commandWord (s : State) : Option Word :=
  match s.inbox with
  | .write off v :: _ => if s.rst = false ∧ wordOffset off = 0x00C then some v else none
  | _ => none

/-- The command this step runs: the one the host's CMD write decodes to, or, on the sequencer's
turn, the one in flight.  CORE fetches no instructions (20_memory.md R72): a command exists only as
the word written, and then as the record.  Held in reset, CORE runs none. -/
def State.fetch (s : State) : Option Instr :=
  match s.turn with
  | .host => s.commandWord.bind decode
  | .sequencer => if s.rst then none else s.inflight.map (·.cmd)

/-- A step that runs no command: a bus access, a change of the reset input, or a turn on which the
sequencer or the host has nothing to do. -/
def State.otherStep (s : State) : State :=
  match s.inbox with
  | .read off :: _ => s.busRead off
  | .write off v :: _ => s.busWrite off v
  | .rst b :: _ => s.driveRst b
  | .sequencer :: _ => s
  | [] => s

/-- The move at the head of the inbox has been made. -/
def State.advance (s : State) : State := { s with inbox := s.inbox.tail }

/-- `advance` on the outcome of a meaning. -/
def advanceOutcome : Host.Outcome State Fault Refusal → Host.Outcome State Fault Refusal
  | .next t => .next t.advance
  | .fault r => .fault r
  | .refused r => .refused r

/-- The state in which the host's next move is to write the table word to CMD, with CORE out of
reset and idle, so that the write is accepted (20_memory.md R64).  DESIGN CHOICE, log entry 3: it is
also how a program comes to run from reset. -/
def State.withCommand (s : State) (w : Word) : State :=
  { s with inbox := .write 0x00C#12 w :: s.inbox, rst := false, inflight := none }

end Sys2Proof.Machine
end

