-- ==== Sys2Proof/Machine/Field.lean ====
section
/-! DEFINITION. The field commands (40_field.md R111 to R118).  Each meaning is the
command's part in a step (`runCommand`): the host's issue of it, which samples its operands
(`State.sample`), and its completion, which writes what is said here of the record. -/

namespace Sys2Proof.Machine

/-- FADD: modular addition (40_field.md R111). -/
def execFadd (ms : ModSel) (d a b : FReg) (s : State) : Host.Outcome State Fault Refusal :=
  runCommand (.fadd ms d a b)
    (fun r => fieldResult d (addMod r.snap.modulus r.snap.xa r.snap.xb)) s

/-- FSUB: modular subtraction (40_field.md R112). -/
def execFsub (ms : ModSel) (d a b : FReg) (s : State) : Host.Outcome State Fault Refusal :=
  runCommand (.fsub ms d a b)
    (fun r => fieldResult d (subMod r.snap.modulus r.snap.xa r.snap.xb)) s

/-- FMUL: modular multiplication (40_field.md R113). -/
def execFmul (ms : ModSel) (d a b : FReg) (s : State) : Host.Outcome State Fault Refusal :=
  runCommand (.fmul ms d a b)
    (fun r => fieldResult d (mulMod r.snap.modulus r.snap.xa r.snap.xb)) s

/-- FSQR: modular squaring (40_field.md R114). -/
def execFsqr (ms : ModSel) (d a : FReg) (s : State) : Host.Outcome State Fault Refusal :=
  runCommand (.fsqr ms d a)
    (fun r => fieldResult d (mulMod r.snap.modulus r.snap.xa r.snap.xa)) s

/-- FNEG: modular negation (40_field.md R115). -/
def execFneg (ms : ModSel) (d a : FReg) (s : State) : Host.Outcome State Fault Refusal :=
  runCommand (.fneg ms d a)
    (fun r => fieldResult d (negMod r.snap.modulus r.snap.xa)) s

/-- FRED: modular reduction (40_field.md R116). -/
def execFred (ms : ModSel) (d a : FReg) (s : State) : Host.Outcome State Fault Refusal :=
  runCommand (.fred ms d a)
    (fun r => fieldResult d (redMod r.snap.modulus r.snap.xa)) s

/-- FINV: modular inverse (40_field.md R117). -/
def execFinv (ms : ModSel) (d a : FReg) (s : State) : Host.Outcome State Fault Refusal :=
  runCommand (.finv ms d a)
    (fun r => inverseResult d (invVal r.snap.modulus r.snap.xa)) s

/-- FMOV: register copy, raw and without a modulus (40_field.md R118). -/
def execFmov (d a : FReg) (s : State) : Host.Outcome State Fault Refusal :=
  runCommand (.fmov d a)
    (fun r => fieldResult d r.snap.xa) s

end Sys2Proof.Machine
end

