-- ==== Sys2Proof/Machine/PointCmds.lean ====
section
/-! DEFINITION. The point commands (41_point.md R150 to R157).  Each meaning is the
command's part in a step (`runCommand`): the host's issue of it, which samples its operands
(`State.sample`), and its completion, which writes what is said here of the record. -/

namespace Sys2Proof.Machine

/-- PADD: affine point addition (41_point.md R150). -/
def execPadd (d a b : PReg) (s : State) : Host.Outcome State Fault Refusal :=
  runCommand (.padd d a b)
    (fun r => pointResult d (addPoints r.snap.modulus r.snap.coeffA r.snap.pa r.snap.pb)) s

/-- PMUL: scalar multiplication by double-and-add (41_point.md R151). -/
def execPmul (d a : PReg) (b : FReg) (s : State) : Host.Outcome State Fault Refusal :=
  runCommand (.pmul d a b)
    (fun r => pointResult d (r.work.finish r.snap.modulus r.snap.coeffA)) s

/-- PLDG: load the base point, raw (41_point.md R152). -/
def execPldg (d : PReg) (s : State) : Host.Outcome State Fault Refusal :=
  runCommand (.pldg d)
    (fun r => pointResult d ⟨r.snap.gx, r.snap.gy, false⟩) s

/-- PSETI: set to the identity (41_point.md R153). -/
def execPseti (d : PReg) (s : State) : Host.Outcome State Fault Refusal :=
  runCommand (.pseti d)
    (fun _ => pointResult d Point.identity) s

/-- PMOV: point copy, raw (41_point.md R154). -/
def execPmov (d a : PReg) (s : State) : Host.Outcome State Fault Refusal :=
  runCommand (.pmov d a)
    (fun r => pointResult d r.snap.pa) s

/-- PSET: build a point from two field registers, raw (41_point.md R155). -/
def execPset (d : PReg) (a b : FReg) (s : State) : Host.Outcome State Fault Refusal :=
  runCommand (.pset d a b)
    (fun r => pointResult d ⟨r.snap.xa, r.snap.xb, false⟩) s

/-- PGETX: read the x coordinate (41_point.md R156). -/
def execPgetx (d : FReg) (a : PReg) (s : State) : Host.Outcome State Fault Refusal :=
  runCommand (.pgetx d a)
    (fun r => coordResult d r.snap.pa r.snap.pa.x) s

/-- PGETY: read the y coordinate (41_point.md R157). -/
def execPgety (d : FReg) (a : PReg) (s : State) : Host.Outcome State Fault Refusal :=
  runCommand (.pgety d a)
    (fun r => coordResult d r.snap.pa r.snap.pa.y) s

end Sys2Proof.Machine
end

