-- ==== Sys2Proof/Machine/Dispatch.lean ====
section
/-! DEFINITION. The meaning of every command: one arm per constructor. -/

namespace Sys2Proof.Machine

def exec (i : Instr) (s : State) : Host.Outcome State Fault Refusal :=
  match i with
  | .fadd ms d a b => Sys2Proof.Machine.execFadd ms d a b s
  | .fsub ms d a b => Sys2Proof.Machine.execFsub ms d a b s
  | .fmul ms d a b => Sys2Proof.Machine.execFmul ms d a b s
  | .fsqr ms d a => Sys2Proof.Machine.execFsqr ms d a s
  | .fneg ms d a => Sys2Proof.Machine.execFneg ms d a s
  | .fred ms d a => Sys2Proof.Machine.execFred ms d a s
  | .finv ms d a => Sys2Proof.Machine.execFinv ms d a s
  | .fmov d a => Sys2Proof.Machine.execFmov d a s
  | .padd d a b => Sys2Proof.Machine.execPadd d a b s
  | .pmul d a b => Sys2Proof.Machine.execPmul d a b s
  | .pldg d => Sys2Proof.Machine.execPldg d s
  | .pseti d => Sys2Proof.Machine.execPseti d s
  | .pmov d a => Sys2Proof.Machine.execPmov d a s
  | .pset d a b => Sys2Proof.Machine.execPset d a b s
  | .pgetx d a => Sys2Proof.Machine.execPgetx d a s
  | .pgety d a => Sys2Proof.Machine.execPgety d a s

end Sys2Proof.Machine
end

