-- ==== Sys2Proof/Machine/Step.lean ====
section
/-! DEFINITION. One step of the machine: one move of the host or of the sequencer (00_scope.md R3). -/

namespace Sys2Proof.Machine

/-- One move: the command that this move issues or completes runs (`exec`), any other move does what
`State.otherStep` says, and the move leaves the inbox. -/
def step (s : State) : Host.Outcome State Fault Refusal :=
  match s.fetch with
  | some i => advanceOutcome (exec i s)
  | none => .next s.otherStep.advance

/-- `s` with the table word as the host's next CMD write. -/
def State.withFetchWord (s : State) (nbits w : Nat) : State := s.withCommand (tableWord nbits w)

end Sys2Proof.Machine
end

