-- ==== Sys2Proof/Safety.lean ====
section
/-! DEFINITION. What the claims call a good state and a safe run. -/

namespace Sys2Proof.Machine

/-- The value lies in [0, 2^W - 1] (00_scope.md R9). -/
abbrev fits (w : Width) (v : Val) : Prop := v.toNat < 2 ^ w.bits

/-- A point value CORE may hold: both coordinates are W-bit values, and the identity is stored as
X = Y = 0 (10_state.md R22, R23). -/
structure Point.Ok (w : Width) (u : Point) : Prop where
  xFits : fits w u.x
  yFits : fits w u.y
  canonical : u.inf = true → u.x = 0 ∧ u.y = 0

/-- The record in flight agrees with the state around it. -/
structure Inflight.Ok (s : State) (r : Inflight) : Prop where
  /-- The snapshot equals the live registers: nothing but a reset can come between them
  (20_memory.md R65). -/
  live : r = s.record r.cmd
  /-- The MODULUS check has passed (60_exceptions.md R173). -/
  modulusOk : ∀ ms, r.cmd.modSel = some ms → 2 ≤ r.snap.modulus.toNat
  /-- CMDLOG holds the command's word (10_state.md R39). -/
  logged : s.cmdlog = encode r.cmd

/-- The good states. -/
structure State.Inv (s : State) : Prop where
  /-- Every field register holds a W-bit value (10_state.md R20). -/
  fieldFits : ∀ i, fits s.width (s.x i)
  /-- Every configuration register holds a W-bit value (10_state.md R24). -/
  cfgFits : ∀ c, fits s.width (s.cfgReg c)
  /-- Every point register holds a point value (10_state.md R22, R23). -/
  pointOk : ∀ i, (s.pt i).Ok s.width
  /-- While BUSY = 1, DONE is 0 (10_state.md R29) and ERR is 0 (20_memory.md R64). -/
  busyQuiet : s.busy = true → s.status.done = false ∧ s.status.err = .ok
  /-- The record in flight is in order. -/
  flightOk : ∀ r, s.inflight = some r → r.Ok s
  /-- ERR = ILLEGAL belongs to a logged word that is no command (60_exceptions.md R172). -/
  illegalLogged : s.status.err = .illegal → decode s.cmdlog = none
  /-- ERR = MODULUS belongs to a logged command that needs a modulus (60_exceptions.md R173). -/
  modulusLogged : s.status.err = .modulus → ∃ c ms, decode s.cmdlog = some c ∧ c.modSel = some ms
  /-- While `rst` is asserted CORE is in its reset state (70_reset_and_hazards.md R200). -/
  held : s.rst = true → s.resetCore = s

/-! ### What a move is

The events the spec's whole-machine rules speak of, read off the state before the step. -/

/-- The host's move is a write of `v` that reaches the word at offset `o`, and CORE is out of reset. -/
def WritesWord (s : State) (o : Nat) (v : Word) : Prop :=
  s.rst = false ∧ ∃ off rest, s.inbox = .write off v :: rest ∧ wordOffset off = o

/-- A CMD write accepted for decoding: BUSY = 0 (20_memory.md R64). -/
def AcceptsWord (s : State) (w : Word) : Prop := s.busy = false ∧ WritesWord s 0x00C w

/-- A CMD write that is dropped: BUSY = 1 (60_exceptions.md R174). -/
def DropsWord (s : State) : Prop := s.busy = true ∧ ∃ w, WritesWord s 0x00C w

/-- A CMD write that is accepted and starts execution (10_state.md R28). -/
def StartsCommand (s : State) : Prop :=
  ∃ w c, AcceptsWord s w ∧ decode w = some c ∧ s.lacksModulus c = false

/-- The completion step of the command in flight (20_memory.md R66). -/
def Completes (s : State) : Prop := s.busy = true ∧ s.rst = false ∧ s.turn = .sequencer

/-- A reset: a CTRL write with bit 0 = 1, the reset input asserted, or its release
(70_reset_and_hazards.md R200).  That the input takes effect in its own move is log entry 7. -/
def Resets (s : State) : Prop :=
  (∃ v, WritesWord s 0x004 v ∧ v.getLsbD 0 = true)
    ∨ (∃ rest, s.inbox = .rst true :: rest)
    ∨ (s.rst = true ∧ ∃ rest, s.inbox = .rst false :: rest)

/-- A STATUS write with a 1 in bit n. -/
def ClearsBit (s : State) (n : Nat) : Prop := ∃ v, WritesWord s 0x008 v ∧ v.getLsbD n = true

/-- A write of a live word of a window: word k of register r, k < K (20_memory.md R54, R55). -/
def WritesWindow (s : State) (r : WindowReg) (k : Nat) (v : Word) : Prop :=
  k < s.width.words ∧ WritesWord s (r.base + 4 * k) v

/-- Every piece of CORE's state is at its value after reset (10_state.md R43). -/
structure IsReset (t : State) : Prop where
  field : ∀ i, t.x i = 0
  point : ∀ i, t.pt i = ⟨0, 0, true⟩
  cfg : ∀ c, t.cfgReg c = 0
  busy : t.busy = false
  done : t.status.done = false
  err : t.status.err = .ok
  z : t.status.z = false
  id : t.status.id = false
  ni : t.status.ni = false
  cmdovf : t.status.cmdovf = false
  werr : t.status.werr = false
  ie : t.ie = false
  cmdlog : t.cmdlog = 0
  inflight : t.inflight = none
  irq : t.irq = false

/-! ### Safe runs -/

/-- A step that stops neither in a fault nor in a refusal and leaves a good state. -/
def SafeStep (s : State) : Prop := ∃ t, step s = .next t ∧ t.Inv

/-- A safe run: n steps from s all answer a next state, and the last state is good. -/
def SafeRun (s : State) (n : Nat) : Prop := ∃ t, Host.Core.run core n s = .next t ∧ t.Inv

end Sys2Proof.Machine
end

