-- ==== Sys2Proof/Certificates/Slice0/Obligations.lean ====
section
/-! DEFINITION. The statements for the provers.  Each docstring names the rules it formalises. -/

open Sys2Proof Sys2Proof.Machine

namespace Sys2Proof.Machine

/-- What every completion does besides its destination and flags, and what it leaves alone
(20_memory.md R66): DONE is set and the record is gone; the configuration registers, CTRL, CMDLOG,
ERR, CMDOVF, WERR and everything outside CORE's registers are as before. -/
structure CompletionFrame (s t : State) : Prop where
  done : t.status.done = true
  idle : t.inflight = none
  err : t.status.err = s.status.err
  cmdovf : t.status.cmdovf = s.status.cmdovf
  werr : t.status.werr = s.status.werr
  width : t.width = s.width
  cfg : t.cfg = s.cfg
  ie : t.ie = s.ie
  cmdlog : t.cmdlog = s.cmdlog
  rst : t.rst = s.rst
  inbox : t.inbox = s.inbox
  rdata : t.rdata = s.rdata
  draws : t.draws = s.draws

/-- The outcome is a next state in which x[d] holds the number `n`, Z says whether it is 0, ID and
NI are as given, and every other register is as in `s`. -/
def FieldDone (s : State) (o : Host.Outcome State Fault Refusal) (d : FReg) (n : Int)
    (id ni : Bool) : Prop :=
  ∃ t, o = .next t ∧ ((t.x d).toNat : Int) = n ∧ (∀ j, j ≠ d → t.x j = s.x j)
    ∧ (∀ j, t.pt j = s.pt j)
    ∧ (t.status.z = true ↔ n = 0) ∧ t.status.id = id ∧ t.status.ni = ni ∧ CompletionFrame s t

/-- The outcome is a next state in which pt[d] holds `u`, Z = 0, ID is its INF bit, NI = 0, and every
other register is as in `s`. -/
def PointDone (s : State) (o : Host.Outcome State Fault Refusal) (d : PReg) (u : Point) : Prop :=
  ∃ t, o = .next t ∧ t.pt d = u ∧ (∀ j, j ≠ d → t.pt j = s.pt j) ∧ (∀ j, t.x j = s.x j)
    ∧ t.status.z = false ∧ t.status.id = u.inf ∧ t.status.ni = false ∧ CompletionFrame s t

/-- The command in flight is `c` with this snapshot and working record, and the sequencer moves. -/
def InFlight (s : State) (c : Instr) (snap : Snapshot) (work : MulWork) : Prop :=
  s.turn = .sequencer ∧ s.inflight = some ⟨c, snap, work⟩

/-- From `s`, the host's CMD write of `c`'s word and then the sequencer's move take two steps to a state
of which `P` holds, with the command done and no error, and the configuration and CTRL untouched. -/
def RunsTo (s : State) (c : Instr) (P : State → Prop) : Prop :=
  ∃ t u, step { s with inbox := [.write 0x00C (encode c), .sequencer] } = .next t
    ∧ t.busy = true ∧ step t = .next u ∧ u.busy = false ∧ u.status.done = true
    ∧ u.status.err = .ok ∧ u.cmdlog = encode c ∧ u.cfg = s.cfg ∧ u.ie = s.ie ∧ P u

/-- In `u`, x[d] holds `n` with the flags a field result gives; every other register is as in `s`. -/
def HoldsField (s : State) (d : FReg) (n : Int) (id ni : Bool) (u : State) : Prop :=
  ((u.x d).toNat : Int) = n ∧ (∀ j, j ≠ d → u.x j = s.x j) ∧ (∀ j, u.pt j = s.pt j)
    ∧ (u.status.z = true ↔ n = 0) ∧ u.status.id = id ∧ u.status.ni = ni

/-- In `u`, pt[d] holds `v` with the flags a point gives; every other register is as in `s`. -/
def HoldsPoint (s : State) (d : PReg) (v : Point) (u : State) : Prop :=
  u.pt d = v ∧ (∀ j, j ≠ d → u.pt j = s.pt j) ∧ (∀ j, u.x j = s.x j)
    ∧ u.status.z = false ∧ u.status.id = v.inf ∧ u.status.ni = false

/-- With the moves `es` to come, `n` steps from `s` reach a state of which `P` holds. -/
def Reaches (s : State) (es : List Event) (n : Nat) (P : State → Prop) : Prop :=
  ∃ t : State, Host.Core.run core n { s with inbox := es } = .next t ∧ P t

/-- With the moves `es` or with the moves `es'` to come, two steps from `s` reach the same state, of
which `P` holds. -/
def ReachBoth (s : State) (es es' : List Event) (P : State → Prop) : Prop :=
  ∃ t : State, Host.Core.run core 2 { s with inbox := es } = .next t
    ∧ Host.Core.run core 2 { s with inbox := es' } = .next t ∧ P t

/-- The offset reaches a live word of a window: word k of register r, k < K (20_memory.md R54). -/
def LiveWindow (s : State) (off : Offset) (r : WindowReg) (k : Nat) : Prop :=
  k < s.width.words ∧ wordOffset off = r.base + 4 * k

/-- The host moves and CORE is idle. -/
def HostMayIssue (s : State) : Prop := s.turn = .host ∧ s.busy = false

/-- Which commands need a modulus, and which modulus they select (20_memory.md R64). -/
def ModulusTable : Prop :=
  (∀ ms d a b, ∀ c ∈ [Instr.fadd ms d a b, .fsub ms d a b, .fmul ms d a b, .fsqr ms d a,
      .fneg ms d a, .fred ms d a, .finv ms d a], c.modSel = some ms)
  ∧ (∀ (d a b : PReg) (n : FReg), ∀ c ∈ [Instr.padd d a b, .pmul d a n], c.modSel = some .p)
  ∧ (∀ (d a b : FReg) (e f : PReg), ∀ c ∈ [Instr.fmov d a, .pldg e, .pseti e, .pmov e f,
      .pset e a b, .pgetx d f, .pgety d f], c.modSel = none)
  ∧ (∀ s : State, s.sel .p = s.cfg.p ∧ s.sel .q = s.cfg.q)

/-- A host access that resets nothing: any read, and any write but one of CTRL with bit 0 = 1. -/
def Harmless : Event → Prop
  | .read _ => True
  | .write off v => wordOffset off = 0x004 → v.getLsbD 0 = false
  | .sequencer => False
  | .rst _ => False

end Sys2Proof.Machine

/-! ### Encoding and dispatch -/

/-- A step runs the decoded command.  A CMD write of a word that decodes runs the decoded command on
the host's turn, the sequencer's turn runs the command in flight, and around it the step only takes
the move off the inbox.  `withFetchWord` makes the very next step such a write.

The form of this statement is the model's choice, not the spec's: that `exec` is the half of a command
that belongs to the agent whose turn it is (log entry 1), that the turns are a list in the state (log
entry 2), and `withFetchWord`, which releases `rst` and drops a command in flight (log entry 3). -/
def Obligations.StepRunsTheDecodedCommand : Prop :=
  (∀ s w i, WritesWord s 0x00C w → decode w = some i → step s = advanceOutcome (exec i s))
  ∧ (∀ s r, s.turn = .sequencer → s.rst = false → s.inflight = some r →
      step s = advanceOutcome (exec r.cmd s))
  ∧ (∀ (s : State) nbits w i, decodeTableWord nbits w = some i →
      step (s.withFetchWord nbits w) = advanceOutcome (exec i (s.withFetchWord nbits w)))
  ∧ (∀ t : State, advanceOutcome (.next t) = .next { t with inbox := t.inbox.tail })

/-- Decoding the word of any command gives the command back, with every operand (30_encoding.md
R81, R86, R87). -/
def Obligations.DecodeOfEncodeIsTheCommand : Prop :=
  ∀ i : Instr, i.wellFormed = true ∧ decode (encode i) = some i

/-- A word that decodes is the word of the command it decodes to: no bit of a command word is
ignored (30_encoding.md R84, R87). -/
def Obligations.EncodeOfDecodeIsTheWord : Prop :=
  ∀ w i, decode w = some i → encode i = w

/-- The mask table and the role table agree: a word is ILLEGAL exactly when its opcode is
unassigned, a reserved field is not 0, MS is 1 where it must be 0, an unused operand field is not 0,
or a point field has bit 3 set (30_encoding.md R84, R85). -/
def Obligations.IllegalExactlyWhenAFieldIsWrong : Prop :=
  ∀ w, decode w = none ↔
    Op.ofOpc (Fields.ofWord w).opc = none
    ∨ (Fields.ofWord w).rsv1 ≠ 0 ∨ (Fields.ofWord w).rsv0 ≠ 0
    ∨ ∃ op, Op.ofOpc (Fields.ofWord w).opc = some op
        ∧ ((op.roles.msFree = false ∧ (Fields.ofWord w).ms ≠ 0)
          ∨ (op.roles.d = .point ∧ (Fields.ofWord w).d.getLsbD 3 = true)
          ∨ (op.roles.a = .point ∧ (Fields.ofWord w).a.getLsbD 3 = true)
          ∨ (op.roles.b = .point ∧ (Fields.ofWord w).b.getLsbD 3 = true)
          ∨ (op.roles.d = .unused ∧ (Fields.ofWord w).d ≠ 0)
          ∨ (op.roles.a = .unused ∧ (Fields.ofWord w).a ≠ 0)
          ∨ (op.roles.b = .unused ∧ (Fields.ofWord w).b ≠ 0))

/-- The encoding examples of 30_encoding.md R93: each assembly line has the word beside it, which
decodes to the line's command, and the last three words are ILLEGAL. -/
def Obligations.EncodingExamples : Prop :=
  ((assemble ⟨.FADD, some .p, [.r 3, .r 1, .r 2]⟩).map encode = some 0x01031200#32
  ∧ (assemble ⟨.FMUL, some .q, [.r 5, .r 4, .r 3]⟩).map encode = some 0x03854300#32
  ∧ (assemble ⟨.FINV, some .q, [.r 10, .r 4]⟩).map encode = some 0x078A4000#32
  ∧ (assemble ⟨.FMOV, none, [.r 0, .r 15]⟩).map encode = some 0x0800F000#32
  ∧ (assemble ⟨.PADD, none, [.p 2, .p 0, .p 1]⟩).map encode = some 0x10020100#32
  ∧ (assemble ⟨.PMUL, none, [.p 1, .p 0, .r 0]⟩).map encode = some 0x11010000#32
  ∧ (assemble ⟨.PLDG, none, [.p 0]⟩).map encode = some 0x12000000#32
  ∧ (assemble ⟨.PSET, none, [.p 7, .r 14, .r 15]⟩).map encode = some 0x1507EF00#32
  ∧ (assemble ⟨.PGETX, none, [.r 1, .p 1]⟩).map encode = some 0x16011000#32)
  ∧ decode 0x01031200#32 = some (.fadd .p 3 1 2) ∧ decode 0x03854300#32 = some (.fmul .q 5 4 3)
  ∧ decode 0x078A4000#32 = some (.finv .q 10 4) ∧ decode 0x0800F000#32 = some (.fmov 0 15)
  ∧ decode 0x10020100#32 = some (.padd 2 0 1) ∧ decode 0x11010000#32 = some (.pmul 1 0 0)
  ∧ decode 0x12000000#32 = some (.pldg 0) ∧ decode 0x1507EF00#32 = some (.pset 7 14 15)
  ∧ decode 0x16011000#32 = some (.pgetx 1 1)
  ∧ decode 0x10080000#32 = none ∧ decode 0x01000001#32 = none ∧ decode 0x08800000#32 = none

/-- The assembler syntax of 30_encoding.md R90: each command's line, destination first, with `.P` or
`.Q` on the field commands that have a modulus; no suffix reads as `.P`; `.Q` on FMOV and on the point
commands, an index out of range and a wrong operand kind are refused.  That `.P` may stand on FMOV is
the model's choice (log entry 8) and is not stated. -/
def Obligations.AssemblerTakesCommandsAndRefusesBadLines : Prop :=
  (∀ (ms : ModSel) (d a b : FReg),
    assemble ⟨.FADD, some ms, [.r d, .r a, .r b]⟩ = some (.fadd ms d a b)
    ∧ assemble ⟨.FSUB, some ms, [.r d, .r a, .r b]⟩ = some (.fsub ms d a b)
    ∧ assemble ⟨.FMUL, some ms, [.r d, .r a, .r b]⟩ = some (.fmul ms d a b)
    ∧ assemble ⟨.FSQR, some ms, [.r d, .r a]⟩ = some (.fsqr ms d a)
    ∧ assemble ⟨.FNEG, some ms, [.r d, .r a]⟩ = some (.fneg ms d a)
    ∧ assemble ⟨.FRED, some ms, [.r d, .r a]⟩ = some (.fred ms d a)
    ∧ assemble ⟨.FINV, some ms, [.r d, .r a]⟩ = some (.finv ms d a)
    ∧ assemble ⟨.FMOV, none, [.r d, .r a]⟩ = some (.fmov d a))
  ∧ (∀ (d a b : PReg) (e f : FReg),
    assemble ⟨.PADD, none, [.p d, .p a, .p b]⟩ = some (.padd d a b)
    ∧ assemble ⟨.PMUL, none, [.p d, .p a, .r e]⟩ = some (.pmul d a e)
    ∧ assemble ⟨.PLDG, none, [.p d]⟩ = some (.pldg d)
    ∧ assemble ⟨.PSETI, none, [.p d]⟩ = some (.pseti d)
    ∧ assemble ⟨.PMOV, none, [.p d, .p a]⟩ = some (.pmov d a)
    ∧ assemble ⟨.PSET, none, [.p d, .r e, .r f]⟩ = some (.pset d e f)
    ∧ assemble ⟨.PGETX, none, [.r e, .p a]⟩ = some (.pgetx e a)
    ∧ assemble ⟨.PGETY, none, [.r e, .p a]⟩ = some (.pgety e a))
  ∧ (∀ op ops, op.roles.msFree = true → assemble ⟨op, none, ops⟩ = assemble ⟨op, some .p, ops⟩)
  ∧ (∀ op ops, op.roles.msFree = false → assemble ⟨op, some .q, ops⟩ = none)
  ∧ (∀ l n, .p n ∈ l.operands → 7 < n → assemble l = none)
  ∧ (∀ l n, .r n ∈ l.operands → 15 < n → assemble l = none)
  ∧ (∀ l i, assemble l = some i →
      l.operands.map (fun o => match o with | .r _ => Role.field | .p _ => Role.point)
        = l.op.roles.written)

/-- The pseudo-instructions of 30_encoding.md R91 and their expansions: PDBL is PADD of a point with
itself; FCLR, an FSUB of a register with itself, clears the register and sets Z, and fails with
MODULUS when the modulus is below 2; FEQ, an FSUB, sets Z exactly when its sources are congruent modulo
M, and writes the difference. -/
def Obligations.PseudoInstructions : Prop :=
  (∀ d a, Instr.pdbl d a = .padd d a a) ∧ (∀ ms d, Instr.fclr ms d = .fsub ms d d d)
  ∧ (∀ ms d a b, Instr.feq ms d a b = .fsub ms d a b)
  ∧ (∀ ms d (s : State), (s.sample (.fclr ms d)).xa = (s.sample (.fclr ms d)).xb)
  ∧ (∀ ms d s snap work, InFlight s (.fclr ms d) snap work → snap.xa = snap.xb →
      2 ≤ snap.modulus.toNat → FieldDone s (exec (.fclr ms d) s) d 0 false false)
  ∧ (∀ ms d a b s snap work, InFlight s (.feq ms d a b) snap work → 2 ≤ snap.modulus.toNat →
      ∃ t, exec (.feq ms d a b) s = .next t
        ∧ (t.status.z = true ↔ snap.xa.toNat ≡ snap.xb.toNat [MOD snap.modulus.toNat])
        ∧ ((t.x d).toNat : Int) = ((snap.xa.toNat : Int) - snap.xb.toNat) % snap.modulus.toNat)
  ∧ (∀ ms d s, HostMayIssue s → (s.sel ms).toNat < 2 →
      ∃ t, exec (.fclr ms d) s = .next t ∧ t.status.err = .modulus ∧ t.x d = s.x d)

/-! ### Issuing a command -/

/-- A command is accepted: when CORE is idle and the modulus the command needs, if any, is at least
2, the CMD write logs the word, clears DONE and ERR, and puts the command in flight with the values
it samples.  Nothing else changes (20_memory.md R64).  This holds for every command. -/
def Obligations.AcceptedCommandIsPutInFlight : Prop :=
  ∀ i s, HostMayIssue s → (∀ ms, i.modSel = some ms → 2 ≤ (s.sel ms).toNat) →
    exec i s = .next { s with
      cmdlog := encode i
      status := { s.status with done := false, err := .ok }
      inflight := some (s.record i) }

/-- What each command samples when it is accepted: its source registers, the modulus it uses, and
the configuration values its opcode implies (10_state.md R21, 20_memory.md R65).  PMUL's record also
holds the accumulator, template and scalar its loop starts from (10_state.md R41, 41_point.md R140);
that they stand there unchanged until the one completion step is log entry 12 (DEDUCED). -/
def Obligations.RecordHoldsTheSampledOperands : Prop :=
  ∀ s : State,
  (∀ ms d a b, ∀ c ∈ [Instr.fadd ms d a b, .fsub ms d a b, .fmul ms d a b],
      (s.record c).cmd = c ∧ (s.record c).snap.xa = s.x a ∧ (s.record c).snap.xb = s.x b
      ∧ (s.record c).snap.modulus = if ms = .p then s.cfg.p else s.cfg.q)
  ∧ (∀ ms d a, ∀ c ∈ [Instr.fsqr ms d a, .fneg ms d a, .fred ms d a, .finv ms d a],
      (s.record c).cmd = c ∧ (s.record c).snap.xa = s.x a
      ∧ (s.record c).snap.modulus = if ms = .p then s.cfg.p else s.cfg.q)
  ∧ (∀ d a, (s.record (.fmov d a)).cmd = .fmov d a ∧ (s.record (.fmov d a)).snap.xa = s.x a)
  ∧ (∀ d a b, (s.record (.padd d a b)).cmd = .padd d a b
      ∧ (s.record (.padd d a b)).snap.pa = s.pt a ∧ (s.record (.padd d a b)).snap.pb = s.pt b
      ∧ (s.record (.padd d a b)).snap.modulus = s.cfg.p
      ∧ (s.record (.padd d a b)).snap.coeffA = s.cfg.a)
  ∧ (∀ d a b, (s.record (.pmul d a b)).cmd = .pmul d a b
      ∧ (s.record (.pmul d a b)).work = ⟨⟨0, 0, true⟩, s.pt a, s.x b⟩
      ∧ (s.record (.pmul d a b)).snap.modulus = s.cfg.p
      ∧ (s.record (.pmul d a b)).snap.coeffA = s.cfg.a)
  ∧ (∀ d, (s.record (.pldg d)).cmd = .pldg d
      ∧ (s.record (.pldg d)).snap.gx = s.cfg.gx ∧ (s.record (.pldg d)).snap.gy = s.cfg.gy)
  ∧ (∀ d, (s.record (.pseti d)).cmd = .pseti d)
  ∧ (∀ d a, (s.record (.pmov d a)).cmd = .pmov d a ∧ (s.record (.pmov d a)).snap.pa = s.pt a)
  ∧ (∀ d a b, (s.record (.pset d a b)).cmd = .pset d a b
      ∧ (s.record (.pset d a b)).snap.xa = s.x a ∧ (s.record (.pset d a b)).snap.xb = s.x b)
  ∧ (∀ d a, ∀ c ∈ [Instr.pgetx d a, .pgety d a],
      (s.record c).cmd = c ∧ (s.record c).snap.pa = s.pt a)

/-- A command that needs a modulus, and selects one below 2, fails with MODULUS inside the CMD write:
the word is logged, ERR = 2, DONE = 1, BUSY stays 0, and nothing else is written.  The commands that
need one are those of `ModulusTable`, and 2 is enough: no other check is made on the parameters
(60_exceptions.md R173). -/
def Obligations.MissingModulusIsAPreciseError : Prop :=
  (∀ i s ms, HostMayIssue s → i.modSel = some ms → (s.sel ms).toNat < 2 →
    exec i s = .next { s with
      cmdlog := encode i, status := { s.status with done := true, err := .modulus } })
  ∧ (∀ i s, HostMayIssue s → (∀ ms, i.modSel = some ms → 2 ≤ (s.sel ms).toNat) →
    ∃ t, exec i s = .next t ∧ t.status.err = .ok ∧ t.busy = true)
  ∧ ModulusTable
  ∧ ErrCode.bits .ok = 0 ∧ ErrCode.bits .illegal = 1 ∧ ErrCode.bits .modulus = 2

/-- A CMD write of a word that no opcode-table row matches fails with ILLEGAL inside the write: the
word is logged, ERR = 1, DONE = 1, and nothing else changes.  The zero word is such a word
(60_exceptions.md R172). -/
def Obligations.IllegalWordIsAPreciseError : Prop :=
  (∀ s w, AcceptsWord s w → decode w = none →
    step s = .next { s with
      inbox := s.inbox.tail, cmdlog := w
      status := { s.status with done := true, err := .illegal } })
  ∧ decode 0 = none

/-- A CMD write while BUSY = 1 is dropped: CMDOVF is set, and the command in flight, CMDLOG, DONE,
ERR and everything else stay.  This holds whatever the word, and comes before every other check
(60_exceptions.md R174, R179). -/
def Obligations.CommandWhileBusyIsDropped : Prop :=
  (∀ i s, s.turn = .host → s.busy = true →
    exec i s = .next { s with status := { s.status with cmdovf := true } })
  ∧ (∀ s, DropsWord s →
    step s = .next { s with
      inbox := s.inbox.tail, status := { s.status with cmdovf := true } })

/-- `IssueCommand(w)` of 20_memory.md R64, which is what a CMD write does, with the checks in the order
of 60_exceptions.md R179: dropped while BUSY = 1; then ILLEGAL; then MODULUS; else accepted, the record
holding the command and the values it samples. -/
def Obligations.CmdWriteIsIssueCommand : Prop :=
  (∀ s w, WritesWord s 0x00C w →
    (s.busy = true → step s = .next { s with
      inbox := s.inbox.tail, status := { s.status with cmdovf := true } })
    ∧ (s.busy = false → decode w = none → step s = .next { s with
      inbox := s.inbox.tail, cmdlog := w
      status := { s.status with done := true, err := .illegal } })
    ∧ (∀ c, s.busy = false → decode w = some c →
      ((∃ ms, c.modSel = some ms ∧ (s.sel ms).toNat < 2) → step s = .next { s with
        inbox := s.inbox.tail, cmdlog := w
        status := { s.status with done := true, err := .modulus } })
      ∧ ((∀ ms, c.modSel = some ms → 2 ≤ (s.sel ms).toNat) → step s = .next { s with
        inbox := s.inbox.tail, cmdlog := w
        status := { s.status with done := false, err := .ok }
        inflight := some ⟨c, s.sample c, (s.sample c).startWork c⟩ })))
  ∧ ModulusTable

/-- An error is precise (60_exceptions.md R178): after a CMD write that fails, ERR holds the code and
DONE is 1, the word is in CMDLOG, BUSY is 0 and there is no record; no field, point or configuration
register, CTRL bit or flag is written; and IRQ asserts at once if CTRL.IE = 1. -/
def Obligations.ErrorsArePrecise : Prop :=
  ∀ s w code, AcceptsWord s w →
    (decode w = none ∧ code = 1#4
      ∨ ∃ c ms, decode w = some c ∧ c.modSel = some ms ∧ (s.sel ms).toNat < 2 ∧ code = 2#4) →
    ∃ t, step s = .next t ∧ t.status.err.bits = code ∧ t.status.done = true ∧ t.cmdlog = w
      ∧ t.busy = false ∧ t.inflight = none ∧ t.fieldRegs = s.fieldRegs
      ∧ t.pointRegs = s.pointRegs ∧ t.cfg = s.cfg ∧ t.ie = s.ie
      ∧ t.status.z = s.status.z ∧ t.status.id = s.status.id ∧ t.status.ni = s.status.ni
      ∧ (s.ie = true → t.irq = true)

/-! ### What each command computes -/

/-- FADD, FSUB and FMUL complete with the sum, difference and product of the sampled operands modulo
the sampled modulus, flags Z from the result, ID = 0, NI = 0, and no other register written
(40_field.md R111 to R113). -/
def Obligations.FieldBinaryResults : Prop :=
  ∀ ms d a b s snap work, 2 ≤ snap.modulus.toNat →
    (InFlight s (.fadd ms d a b) snap work → FieldDone s (exec (.fadd ms d a b) s) d
      (((snap.xa.toNat : Int) + snap.xb.toNat) % snap.modulus.toNat) false false)
    ∧ (InFlight s (.fsub ms d a b) snap work → FieldDone s (exec (.fsub ms d a b) s) d
      (((snap.xa.toNat : Int) - snap.xb.toNat) % snap.modulus.toNat) false false)
    ∧ (InFlight s (.fmul ms d a b) snap work → FieldDone s (exec (.fmul ms d a b) s) d
      (((snap.xa.toNat : Int) * snap.xb.toNat) % snap.modulus.toNat) false false)

/-- FSQR, FNEG and FRED complete with the square, the negation and the residue of the sampled operand
modulo the sampled modulus (40_field.md R114 to R116). -/
def Obligations.FieldUnaryResults : Prop :=
  ∀ ms d a s snap work, 2 ≤ snap.modulus.toNat →
    (InFlight s (.fsqr ms d a) snap work → FieldDone s (exec (.fsqr ms d a) s) d
      (((snap.xa.toNat : Int) * snap.xa.toNat) % snap.modulus.toNat) false false)
    ∧ (InFlight s (.fneg ms d a) snap work → FieldDone s (exec (.fneg ms d a) s) d
      ((0 - (snap.xa.toNat : Int)) % snap.modulus.toNat) false false)
    ∧ (InFlight s (.fred ms d a) snap work → FieldDone s (exec (.fred ms d a) s) d
      ((snap.xa.toNat : Int) % snap.modulus.toNat) false false)

/-- FINV completes with the inverse of the sampled operand when it is coprime to the modulus, and
with 0, Z = 1 and NI = 1 when it is not; a missing inverse is no error (40_field.md R117). -/
def Obligations.InverseResults : Prop :=
  ∀ ms d a s snap work, InFlight s (.finv ms d a) snap work → 2 ≤ snap.modulus.toNat →
    (∀ u : Nat, 1 ≤ u → u < snap.modulus.toNat →
        (snap.xa.toNat * u) % snap.modulus.toNat = 1 →
      FieldDone s (exec (.finv ms d a) s) d u false false)
    ∧ (Nat.gcd snap.xa.toNat snap.modulus.toNat ≠ 1 →
      FieldDone s (exec (.finv ms d a) s) d 0 false true)
    ∧ (Nat.gcd snap.xa.toNat snap.modulus.toNat = 1 →
      ∃ u : Nat, 1 ≤ u ∧ u < snap.modulus.toNat
        ∧ (snap.xa.toNat * u) % snap.modulus.toNat = 1)

/-- FMOV completes with the sampled operand, raw, and works with no modulus written
(40_field.md R118). -/
def Obligations.CopyResult : Prop :=
  ∀ d a s snap work, InFlight s (.fmov d a) snap work →
    FieldDone s (exec (.fmov d a) s) d snap.xa.toNat false false

/-- PADD completes with `AddPoints` of the sampled points, and sets no NI (41_point.md R150). -/
def Obligations.PointAdditionResult : Prop :=
  ∀ d a b s snap work, InFlight s (.padd d a b) snap work →
    PointDone s (exec (.padd d a b) s) d (addPoints snap.modulus snap.coeffA snap.pa snap.pb)

/-- PMUL completes with `ScalarMultiply` of the point and the scalar its record started from
(41_point.md R151). -/
def Obligations.ScalarMultiplicationResult : Prop :=
  ∀ d a b s snap t0 n, InFlight s (.pmul d a b) snap ⟨⟨0, 0, true⟩, t0, n⟩ →
    PointDone s (exec (.pmul d a b) s) d (scalarMultiply snap.modulus snap.coeffA t0 n)

/-- PLDG, PSETI, PMOV and PSET complete with the base point, the identity, the source point and the
point of the two sources, all raw (41_point.md R152 to R155). -/
def Obligations.PointMoveResults : Prop :=
  (∀ d s snap work, InFlight s (.pldg d) snap work →
    PointDone s (exec (.pldg d) s) d ⟨snap.gx, snap.gy, false⟩)
  ∧ (∀ d s snap work, InFlight s (.pseti d) snap work →
    PointDone s (exec (.pseti d) s) d ⟨0, 0, true⟩)
  ∧ (∀ d a s snap work, InFlight s (.pmov d a) snap work →
    PointDone s (exec (.pmov d a) s) d snap.pa)
  ∧ (∀ d a b s snap work, InFlight s (.pset d a b) snap work →
    PointDone s (exec (.pset d a b) s) d ⟨snap.xa, snap.xb, false⟩)

/-- PGETX and PGETY complete with the coordinate of a finite point, and with 0 and ID = 1 for the
identity; Z says whether x[d] is 0 (41_point.md R156, R157). -/
def Obligations.CoordinateResults : Prop :=
  ∀ d a s snap work,
    (InFlight s (.pgetx d a) snap work → FieldDone s (exec (.pgetx d a) s) d
      (if snap.pa.inf then 0 else snap.pa.x.toNat) snap.pa.inf false)
    ∧ (InFlight s (.pgety d a) snap work → FieldDone s (exec (.pgety d a) s) d
      (if snap.pa.inf then 0 else snap.pa.y.toNat) snap.pa.inf false)

/-- Every field command but FMOV gives the same result for unreduced sources as for sources first
reduced modulo M, and a result in [0, M-1] (40_field.md R103). -/
def Obligations.UnreducedOperandsGiveTheReducedResult : Prop :=
  ∀ ms d a b, ∀ c ∈ [Instr.fadd ms d a b, .fsub ms d a b, .fmul ms d a b, .fsqr ms d a,
      .fneg ms d a, .fred ms d a, .finv ms d a],
    ∀ s snap work, InFlight s c snap work → 2 ≤ snap.modulus.toNat →
      (∃ t, exec c s = .next t ∧ (t.x d).toNat < snap.modulus.toNat)
      ∧ exec c s = exec c { s with
          inflight := some ⟨c, { snap with
            xa := BitVec.ofNat 512 (snap.xa.toNat % snap.modulus.toNat)
            xb := BitVec.ofNat 512 (snap.xb.toNat % snap.modulus.toNat) }, work⟩ }

/-- The extended Euclidean algorithm computes the modular inverse of 40_field.md R102: for M ≥ 2 and
any integer v it gives the unique u in [1, M-1] with v·u ≡ 1 (mod M) when gcd(v mod M, M) = 1, and
none otherwise; for a prime M that is exactly when v ≡ 0. -/
def Obligations.EuclidComputesTheModularInverse : Prop :=
  ∀ (m : Nat) (v : Int), 2 ≤ m →
    (Nat.gcd (v % m).toNat m = 1 →
      ∃ u, invMod m v = some u ∧ 1 ≤ u ∧ u ≤ m - 1 ∧ (v * u) % m = 1
        ∧ ∀ u' : Nat, 1 ≤ u' → u' ≤ m - 1 → (v * u') % m = 1 → u' = u)
    ∧ (Nat.gcd (v % m).toNat m ≠ 1 → invMod m v = none)
    ∧ (Nat.Prime m → (invMod m v = none ↔ v % m = 0))

/-- The group law of 41_point.md R132 to R135, on the raw stored coordinates: an identity operand
gives the other operand as stored; otherwise, with the tangent's or the chord's numerator and
denominator, no inverse gives IDENTITY and an inverse i gives the point of slope (num·i) mod p. -/
def Obligations.GroupLaw : Prop :=
  ∀ p a u v, 2 ≤ p.toNat →
    (u.inf = true → addPoints p a u v = v)
    ∧ (v.inf = true → u.inf = false → addPoints p a u v = u)
    ∧ (u.inf = false → v.inf = false →
      ∀ num den : Int,
        (if u.x = v.x ∧ u.y = v.y then
          num = 3 * (u.x.toNat : Int) * u.x.toNat + a.toNat ∧ den = 2 * (u.y.toNat : Int)
        else num = (v.y.toNat : Int) - u.y.toNat ∧ den = (v.x.toNat : Int) - u.x.toNat) →
        (Nat.gcd (den % p.toNat).toNat p.toNat ≠ 1 → addPoints p a u v = ⟨0, 0, true⟩)
        ∧ (∀ i : Nat, 1 ≤ i → i < p.toNat → (den * i) % p.toNat = 1 →
          ∃ x3 y3 : Val, addPoints p a u v = ⟨x3, y3, false⟩
            ∧ ∀ lam : Int, lam = (num * i) % p.toNat →
              (x3.toNat : Int) = (lam * lam - u.x.toNat - v.x.toNat) % p.toNat
              ∧ (y3.toNat : Int)
                  = (lam * ((u.x.toNat : Int) - x3.toNat) - u.y.toNat) % p.toNat))

/-- Point addition is symmetric on two non-identity operands that are distinct as stored
(41_point.md R137). -/
def Obligations.GroupLawIsSymmetric : Prop :=
  ∀ p a u v, 2 ≤ p.toNat → u.inf = false → v.inf = false → ¬ (u.x = v.x ∧ u.y = v.y) →
    addPoints p a u v = addPoints p a v u

/-- The double-and-add loop of 41_point.md R140: it stops with the accumulator when no bit is left,
and otherwise adds the template when the low bit is 1, doubles the template and shifts the scalar
right by one bit. -/
def Obligations.DoubleAndAddLoop : Prop :=
  ∀ p a,
    (∀ acc tmpl, (MulWork.mk acc tmpl 0).finish p a = acc)
    ∧ (∀ acc tmpl (n : Val), n ≠ 0 →
      (MulWork.mk acc tmpl n).finish p a
        = (MulWork.mk (if n.getLsbD 0 then addPoints p a acc tmpl else acc)
            (addPoints p a tmpl tmpl) (n >>> 1)).finish p a)
    ∧ (∀ t0 n, scalarMultiply p a t0 n = (MulWork.mk ⟨0, 0, true⟩ t0 n).finish p a)

/-- Multiplying by 0 gives IDENTITY, multiplying by 1 gives the point exactly as stored, and any
multiple of IDENTITY is IDENTITY (41_point.md R141). -/
def Obligations.ScalarZeroOneAndIdentity : Prop :=
  ∀ p a,
    (∀ t0, scalarMultiply p a t0 0 = ⟨0, 0, true⟩)
    ∧ (∀ t0, scalarMultiply p a t0 1 = t0)
    ∧ (∀ n, scalarMultiply p a ⟨0, 0, true⟩ n = ⟨0, 0, true⟩)

/-- No command reads cfg.B or cfg.M: with other values there, every command does the same to
everything else and leaves them alone (10_state.md R25). -/
def Obligations.NoCommandReadsBOrM : Prop :=
  ∀ i s t b m, exec i s = .next t →
    exec i { s with cfg := { s.cfg with b := b, m := m } }
      = .next { t with cfg := { t.cfg with b := b, m := m } }

/-! ### Running a command -/

/-- A command the host issues while CORE is idle runs to its end when the sequencer moves next: two
steps, after which CORE is idle again with DONE = 1 and ERR = 0, and the second step is the
completion of the record taken from the registers at the first. -/
def Obligations.IssueThenComplete : Prop :=
  ∀ s off i rest, s.rst = false → s.busy = false → wordOffset off = 0x00C →
    s.inbox = .write off (encode i) :: .sequencer :: rest →
    (∀ ms, i.modSel = some ms → 2 ≤ (s.sel ms).toNat) →
    ∃ t u, step s = .next t ∧ t.inflight = some (s.record i) ∧ t.fieldRegs = s.fieldRegs
      ∧ t.pointRegs = s.pointRegs ∧ t.cfg = s.cfg
      ∧ exec i t = .next u ∧ step t = .next { u with inbox := rest }
      ∧ u.inflight = none ∧ u.status.done = true ∧ u.status.err = .ok ∧ u.cmdlog = encode i

/-- Every field command, from the CMD write to its result, in terms of the registers as they are when
it is issued: D may equal A or B, since the sources are sampled before the write
(40_field.md R100, R111 to R118). -/
def Obligations.FieldCommandsFromIssueToResult : Prop :=
  ∀ s : State, s.rst = false → s.busy = false →
    (∀ ms d a b, 2 ≤ (s.sel ms).toNat →
      RunsTo s (.fadd ms d a b) (HoldsField s d
        (((s.x a).toNat + (s.x b).toNat : Int) % (s.sel ms).toNat) false false)
      ∧ RunsTo s (.fsub ms d a b) (HoldsField s d
        (((s.x a).toNat - (s.x b).toNat : Int) % (s.sel ms).toNat) false false)
      ∧ RunsTo s (.fmul ms d a b) (HoldsField s d
        (((s.x a).toNat * (s.x b).toNat : Int) % (s.sel ms).toNat) false false)
      ∧ RunsTo s (.fsqr ms d a) (HoldsField s d
        (((s.x a).toNat * (s.x a).toNat : Int) % (s.sel ms).toNat) false false)
      ∧ RunsTo s (.fneg ms d a) (HoldsField s d
        ((0 - (s.x a).toNat : Int) % (s.sel ms).toNat) false false)
      ∧ RunsTo s (.fred ms d a) (HoldsField s d
        (((s.x a).toNat : Int) % (s.sel ms).toNat) false false)
      ∧ (∀ u : Nat, 1 ≤ u → u < (s.sel ms).toNat → ((s.x a).toNat * u) % (s.sel ms).toNat = 1 →
        RunsTo s (.finv ms d a) (HoldsField s d u false false))
      ∧ (Nat.gcd (s.x a).toNat (s.sel ms).toNat ≠ 1 →
        RunsTo s (.finv ms d a) (HoldsField s d 0 false true)))
    ∧ (∀ d a, RunsTo s (.fmov d a) (HoldsField s d (s.x a).toNat false false))

/-- Every point command, from the CMD write to its result, in terms of the registers as they are when
it is issued (41_point.md R130, R150 to R157). -/
def Obligations.PointCommandsFromIssueToResult : Prop :=
  ∀ s : State, s.rst = false → s.busy = false →
    (∀ d a b n, 2 ≤ s.cfg.p.toNat →
      RunsTo s (.padd d a b) (HoldsPoint s d (addPoints s.cfg.p s.cfg.a (s.pt a) (s.pt b)))
      ∧ RunsTo s (.pmul d a n)
        (HoldsPoint s d (scalarMultiply s.cfg.p s.cfg.a (s.pt a) (s.x n))))
    ∧ (∀ d, RunsTo s (.pldg d) (HoldsPoint s d ⟨s.cfg.gx, s.cfg.gy, false⟩)
      ∧ RunsTo s (.pseti d) (HoldsPoint s d ⟨0, 0, true⟩))
    ∧ (∀ d a, RunsTo s (.pmov d a) (HoldsPoint s d (s.pt a)))
    ∧ (∀ d a b, RunsTo s (.pset d a b) (HoldsPoint s d ⟨s.x a, s.x b, false⟩))
    ∧ (∀ d a,
      RunsTo s (.pgetx d a) (HoldsField s d
        (if (s.pt a).inf then 0 else (s.pt a).x.toNat) (s.pt a).inf false)
      ∧ RunsTo s (.pgety d a) (HoldsField s d
        (if (s.pt a).inf then 0 else (s.pt a).y.toNat) (s.pt a).inf false))

/-- Nothing the host does while a command runs changes what the command does, short of a reset: after
any harmless accesses followed by the completion, the register files, the configuration, the flags,
DONE, ERR and CMDLOG are those of completing at once (20_memory.md R65, R69). -/
def Obligations.AccessesWhileBusyDoNotChangeTheResult : Prop :=
  ∀ (s : State) (es : List Event), s.Inv → s.busy = true → (∀ e ∈ es, Harmless e) →
    ∃ t u : State, Host.Core.run core (es.length + 1) { s with inbox := es ++ [.sequencer] } = .next t
      ∧ Host.Core.run core 1 { s with inbox := [.sequencer] } = .next u
      ∧ t.fieldRegs = u.fieldRegs ∧ t.pointRegs = u.pointRegs ∧ t.cfg = u.cfg
      ∧ t.inflight = none ∧ u.inflight = none
      ∧ t.status.z = u.status.z ∧ t.status.id = u.status.id ∧ t.status.ni = u.status.ni
      ∧ t.status.done = true ∧ u.status.done = true ∧ t.status.err = u.status.err
      ∧ t.cmdlog = u.cmdlog

/-- The two orders of every race of a host access with the completion step (60_exceptions.md R182),
for every offset and every word written.  (a) A CMD write is dropped, or comes second and is handled:
accepted, ILLEGAL or MODULUS.  (b) A window write is dropped, or comes second and lands.  A window read
is unspecified, or comes second and shows the register.  (c) A STATUS read sees BUSY = 1, DONE = 0, or
BUSY = 0, DONE = 1.  (d) A STATUS write finds DONE = 0, or comes second and clears the new DONE where
its bit 1 is 1.  (e) A soft reset ends in the reset state.  A CTRL write that does not reset, every
other read and every other write end in the same state in both orders.  The order is the inbox's (log
entry 2). -/
def Obligations.BothOrdersOfARace : Prop :=
  ∀ (s : State) (off : Offset), s.Inv → s.busy = true → s.rst = false →
    (∀ w, wordOffset off = 0x00C →
      Reaches s [.write off w, .sequencer] 1 (fun t =>
        t.status.cmdovf = true ∧ t.inflight = s.inflight ∧ t.cmdlog = s.cmdlog
          ∧ t.status.err = s.status.err ∧ t.status.done = s.status.done)
      ∧ (∀ c, decode w = some c → s.lacksModulus c = false →
        Reaches s [.sequencer, .write off w] 2 (fun t =>
          t.inflight.map (·.cmd) = some c ∧ t.cmdlog = w ∧ t.status.err = .ok
            ∧ t.status.done = false ∧ t.status.cmdovf = s.status.cmdovf))
      ∧ (∀ c, decode w = some c → s.lacksModulus c = true →
        Reaches s [.sequencer, .write off w] 2 (fun t =>
          t.busy = false ∧ t.cmdlog = w ∧ t.status.err = .modulus ∧ t.status.done = true
            ∧ t.status.cmdovf = s.status.cmdovf))
      ∧ (decode w = none →
        Reaches s [.sequencer, .write off w] 2 (fun t =>
          t.busy = false ∧ t.cmdlog = w ∧ t.status.err = .illegal ∧ t.status.done = true
            ∧ t.status.cmdovf = s.status.cmdovf)))
    ∧ (∀ r k v, LiveWindow s off r k →
      Reaches s [.write off v, .sequencer] 1 (fun t =>
        t.status.werr = true ∧ t.windowReg r = s.windowReg r)
      ∧ Reaches s [.sequencer, .write off v] 2 (fun t =>
        wordOf (t.windowReg r) k = v ∧ t.status.werr = s.status.werr))
    ∧ (∀ r k, LiveWindow s off r k →
      Reaches s [.read off, .sequencer] 1 (fun t => t.rdata = Config.any32 s.draws)
      ∧ Reaches s [.sequencer, .read off] 2 (fun t =>
        t.busy = false ∧ t.rdata = wordOf (t.windowReg r) k))
    ∧ (wordOffset off = 0x008 →
      Reaches s [.read off, .sequencer] 1 (fun t =>
        t.rdata.getLsbD 0 = true ∧ t.rdata.getLsbD 1 = false)
      ∧ Reaches s [.sequencer, .read off] 2 (fun t =>
        t.rdata.getLsbD 0 = false ∧ t.rdata.getLsbD 1 = true))
    ∧ (∀ v : Word, wordOffset off = 0x008 →
      Reaches s [.write off v, .sequencer] 2 (fun t =>
        t.busy = false ∧ t.status.done = true
          ∧ t.status.cmdovf = (s.status.cmdovf && !v.getLsbD 11)
          ∧ t.status.werr = (s.status.werr && !v.getLsbD 12))
      ∧ Reaches s [.sequencer, .write off v] 2 (fun t =>
        t.busy = false ∧ t.status.done = !v.getLsbD 1
          ∧ t.status.cmdovf = (s.status.cmdovf && !v.getLsbD 11)
          ∧ t.status.werr = (s.status.werr && !v.getLsbD 12)))
    ∧ (∀ v : Word, wordOffset off = 0x004 → v.getLsbD 0 = true →
      Reaches s [.write off v, .sequencer] 2 IsReset
      ∧ Reaches s [.sequencer, .write off v] 2 IsReset)
    ∧ (∀ v : Word, wordOffset off = 0x004 → v.getLsbD 0 = false →
      ReachBoth s [.write off v, .sequencer] [.sequencer, .write off v] (fun t =>
        t.busy = false ∧ t.ie = v.getLsbD 1 ∧ t.status.done = true ∧ t.irq = v.getLsbD 1))
    ∧ (wordOffset off ≠ 0x008 → (∀ r k, ¬ LiveWindow s off r k) →
      ReachBoth s [.read off, .sequencer] [.sequencer, .read off] (fun t =>
        t.busy = false ∧ t.status.done = true))
    ∧ (∀ v : Word, wordOffset off ≠ 0x004 → wordOffset off ≠ 0x008 → wordOffset off ≠ 0x00C →
      (∀ r k, ¬ LiveWindow s off r k) →
      ReachBoth s [.write off v, .sequencer] [.sequencer, .write off v] (fun t =>
        t.busy = false ∧ t.status.done = true ∧ t.status.werr = s.status.werr))

/-! ### Every run -/

/-- The state after reset is good. -/
def Obligations.ResetStateIsGood : Prop := State.reset.Inv

/-- Every step keeps the good states good: registers hold W-bit values, points keep the identity's
one representation, DONE and ERR are quiet while BUSY, the snapshot in flight equals the live
registers, and the logged word explains ERR. -/
def Obligations.EveryStepKeepsTheInvariant : Prop :=
  ∀ s t : State, s.Inv → step s = .next t → t.Inv

/-- CORE has no trap: every step of every state answers a next state (60_exceptions.md R170), and so
does every command in every state. -/
def Obligations.NothingEverStops : Prop :=
  (∀ s, ∃ t, step s = .next t) ∧ (∀ i s, ∃ t, exec i s = .next t)

/-- A run of any length from a good state is safe. -/
def Obligations.RunsFromGoodStatesAreSafe : Prop :=
  ∀ (s : State) (n : Nat), s.Inv → SafeRun s n

/-- BUSY does not outlast the moves in the inbox by more than one step: the command in flight has
completed, or a reset among the moves has discarded it (20_memory.md R67).  That an empty inbox lets the sequencer move is the model's rendering of fairness (log entry 2). -/
def Obligations.BusyEndsWithTheInbox : Prop :=
  ∀ s : State, s.Inv →
    ∃ t : State, Host.Core.run core (s.inbox.length + 1) s = .next t ∧ t.busy = false ∧ t.inbox = []

/-! ### What may change a piece of state -/

/-- BUSY: set exactly by a CMD write that starts execution, cleared exactly by the completion step
and by reset (10_state.md R28). -/
def Obligations.BusyChangesOnlyByStartCompletionReset : Prop :=
  ∀ s t, step s = .next t →
    (s.busy = false → (t.busy = true ↔ StartsCommand s))
    ∧ (s.busy = true → (t.busy = false ↔ Completes s ∨ Resets s))

/-- DONE: cleared when a word is accepted for decoding, set by the completion step and by an error,
cleared by writing 1 to STATUS bit 1 and by reset, and otherwise unchanged; it is 0 while BUSY = 1
(10_state.md R29). -/
def Obligations.DoneFollowsTheLifecycle : Prop :=
  (∀ s t, step s = .next t →
    (StartsCommand s → t.status.done = false)
    ∧ (∀ w, AcceptsWord s w → ¬ StartsCommand s → t.status.done = true)
    ∧ (Completes s → t.status.done = true)
    ∧ (ClearsBit s 1 → t.status.done = false)
    ∧ (Resets s → t.status.done = false)
    ∧ ((∀ w, ¬ AcceptsWord s w) → ¬ Completes s → ¬ ClearsBit s 1 → ¬ Resets s →
      t.status.done = s.status.done))
  ∧ (∀ s : State, s.Inv → s.busy = true → s.status.done = false)

/-- ERR holds the code of the last word accepted for decoding, and CMDLOG that word; nothing but such
a write and a reset changes either, and no code from 3 to 15 is ever shown (10_state.md R30, R39). -/
def Obligations.ErrAndCmdlogRecordTheLastWord : Prop :=
  (∀ s t, step s = .next t →
    (∀ w, AcceptsWord s w → t.cmdlog = w
      ∧ (decode w = none → t.status.err.bits = 1)
      ∧ (∀ c, decode w = some c → s.lacksModulus c = true → t.status.err.bits = 2)
      ∧ (∀ c, decode w = some c → s.lacksModulus c = false → t.status.err.bits = 0))
    ∧ (Resets s → t.cmdlog = 0 ∧ t.status.err.bits = 0)
    ∧ ((∀ w, ¬ AcceptsWord s w) → ¬ Resets s →
      t.cmdlog = s.cmdlog ∧ t.status.err = s.status.err))
  ∧ (∀ s : State, s.status.err.bits.toNat ≤ 2)

/-- CMDOVF and WERR are sticky: a dropped CMD write sets CMDOVF, a dropped live window write sets
WERR, only a 1 written to STATUS bit 11 or 12, or a reset, clears them, and nothing else changes
them (10_state.md R34, R35). -/
def Obligations.OverflowBitsAreSticky : Prop :=
  ∀ s t, step s = .next t →
    (t.status.cmdovf = true ↔
      ¬ Resets s ∧ ¬ ClearsBit s 11 ∧ (s.status.cmdovf = true ∨ DropsWord s))
    ∧ (t.status.werr = true ↔
      ¬ Resets s ∧ ¬ ClearsBit s 12
        ∧ (s.status.werr = true ∨ (s.busy = true ∧ ∃ r k v, WritesWindow s r k v)))

/-- The flags Z, ID and NI change only at a completion or a reset: no failing command, no dropped
write and no bus access touches them (10_state.md R31 to R33). -/
def Obligations.FlagsChangeOnlyAtCompletion : Prop :=
  ∀ s t, step s = .next t → ¬ Completes s → ¬ Resets s →
    t.status.z = s.status.z ∧ t.status.id = s.status.id ∧ t.status.ni = s.status.ni

/-- Point registers change only at a completion or a reset; field registers also by a window write
while idle; configuration registers only by a window write while idle or a reset; CTRL.IE only by a
CTRL write or a reset; the width and the ID register never (10_state.md R20, R22, R26, R36, R37). -/
def Obligations.RegistersChangeOnlyBy : Prop :=
  ∀ s t, step s = .next t →
    t.width = s.width ∧ t.idWord = s.idWord
    ∧ (¬ Completes s → ¬ Resets s → t.pointRegs = s.pointRegs)
    ∧ (¬ Completes s → ¬ Resets s → (∀ i k v, ¬ WritesWindow s (.field i) k v) →
      t.fieldRegs = s.fieldRegs)
    ∧ (¬ Resets s → (∀ c k v, ¬ WritesWindow s (.cfg c) k v) → t.cfg = s.cfg)
    ∧ (s.busy = true → ¬ Completes s → ¬ Resets s → t.fieldRegs = s.fieldRegs)
    ∧ (s.busy = true → ¬ Resets s → t.cfg = s.cfg)
    ∧ (¬ Resets s → (∀ v, ¬ WritesWord s 0x004 v) → t.ie = s.ie)

/-! ### The bus -/

/-- A bus read out of reset returns what 20_memory.md R57 says of its offset, and leaves every
register as it is: the free value of an unspecified word is all that is drawn. -/
def Obligations.BusReadReturnsTheRegister : Prop :=
  ∀ s off rest, s.inbox = .read off :: rest → s.rst = false →
    ∃ t, step s = .next t
      ∧ t = { s with inbox := rest, rdata := t.rdata, draws := t.draws }
      ∧ (wordOffset off = 0x000 → t.rdata = 0x45430000#32 ||| BitVec.ofNat 32 s.width.bits)
      ∧ (wordOffset off = 0x004 → t.rdata = if s.ie then 2 else 0)
      ∧ (wordOffset off = 0x008 → t.rdata = s.statusWord)
      ∧ (wordOffset off = 0x00C → t.rdata = 0)
      ∧ (wordOffset off = 0x010 → t.rdata = s.cmdlog)
      ∧ (∀ (r : WindowReg) k, k < 16 → wordOffset off = r.base + 4 * k →
        (s.width.words ≤ k → t.rdata = 0)
        ∧ (k < s.width.words → s.busy = true →
          t.rdata = Config.any32 s.draws ∧ t.draws = s.draws + 1)
        ∧ (k < s.width.words → s.busy = false →
          t.rdata = (s.windowReg r).extractLsb' (32 * k) 32))
      ∧ ((0x014 ≤ wordOffset off ∧ wordOffset off < 0x100)
          ∨ (0x2C0 ≤ wordOffset off ∧ wordOffset off < 0x400) ∨ 0x800 ≤ wordOffset off →
        t.rdata = 0)

/-- The fields of the STATUS word (10_state.md R27). -/
def Obligations.StatusWordLayout : Prop :=
  ∀ s : State,
    s.statusWord.getLsbD 0 = s.busy ∧ s.statusWord.getLsbD 1 = s.status.done
    ∧ s.statusWord.extractLsb' 2 2 = 0 ∧ s.statusWord.extractLsb' 4 4 = s.status.err.bits
    ∧ s.statusWord.getLsbD 8 = s.status.z ∧ s.statusWord.getLsbD 9 = s.status.id
    ∧ s.statusWord.getLsbD 10 = s.status.ni ∧ s.statusWord.getLsbD 11 = s.status.cmdovf
    ∧ s.statusWord.getLsbD 12 = s.status.werr ∧ s.statusWord.extractLsb' 13 19 = 0

/-- A W-bit register value is the sum of its K words, word 0 the least significant; bit j of word k
is bit 32k + j of the register; and word k of register r is at offset base(r) + 4k
(20_memory.md R54). -/
def Obligations.WindowWordsMakeTheValue : Prop :=
  (∀ (w : Width) (v : Val), v.toNat < 2 ^ w.bits →
    v.toNat = ((List.range w.words).map fun k => (wordOf v k).toNat * 2 ^ (32 * k)).sum)
  ∧ (∀ (v : Val) (k j : Nat), k < 16 → j < 32 →
    (wordOf v k).getLsbD j = v.getLsbD (32 * k + j))
  ∧ (∀ (r : WindowReg) (k : Nat), k < 16 → windowAt (r.base + 4 * k) = some (r, k))

/-- A window write while idle replaces its word of its register and changes nothing else: not another
word, not another register, not the status (20_memory.md R58). -/
def Obligations.IdleWindowWriteReplacesOneWord : Prop :=
  ∀ s r k v, WritesWindow s r k v → s.busy = false →
    ∃ t, step s = .next t
      ∧ wordOf (t.windowReg r) k = v
      ∧ (∀ l, l < 16 → l ≠ k → wordOf (t.windowReg r) l = wordOf (s.windowReg r) l)
      ∧ (∀ r', r' ≠ r → t.windowReg r' = s.windowReg r')
      ∧ t = { s with inbox := s.inbox.tail, fieldRegs := t.fieldRegs, cfg := t.cfg }

/-- A write of a live window word while BUSY = 1 is dropped and sets WERR, and the command in flight
goes on; a word beyond K, 8 to 15 when W = 256 and none when W = 512, reads as 0, and a write of it does
nothing at all, busy or not (20_memory.md R55, R59, 60_exceptions.md R175). -/
def Obligations.WindowWriteDroppedOrIgnored : Prop :=
  (∀ s r k v, WritesWindow s r k v → s.busy = true →
    step s = .next { s with
      inbox := s.inbox.tail, status := { s.status with werr := true } })
  ∧ (∀ (s : State) (r : WindowReg) k v, s.width.words ≤ k → k < 16 → WritesWord s (r.base + 4 * k) v →
    step s = .next { s with inbox := s.inbox.tail })
  ∧ (∀ (s : State) off rest (r : WindowReg) k, s.rst = false → s.inbox = .read off :: rest →
    s.width.words ≤ k → k < 16 → wordOffset off = r.base + 4 * k →
    step s = .next { s with inbox := rest, rdata := 0 })
  ∧ Width.w256.words = 8 ∧ Width.w512.words = 16

/-- Reserved offsets read as 0 and ignore writes, and writes to the read-only registers ID and CMDLOG
are ignored in the same way: no error is raised and no status bit is set (20_memory.md R56). -/
def Obligations.ReservedOffsetsReadZeroAndIgnoreWrites : Prop :=
  (∀ s o v, WritesWord s o v →
    (o = 0x000 ∨ o = 0x010 ∨ (0x014 ≤ o ∧ o < 0x100) ∨ (0x2C0 ≤ o ∧ o < 0x400) ∨ 0x800 ≤ o) →
    step s = .next { s with inbox := s.inbox.tail })
  ∧ (∀ (s : State) off rest, s.rst = false → s.inbox = .read off :: rest →
    ((0x014 ≤ wordOffset off ∧ wordOffset off < 0x100)
      ∨ (0x2C0 ≤ wordOffset off ∧ wordOffset off < 0x400) ∨ 0x800 ≤ wordOffset off) →
    step s = .next { s with inbox := rest, rdata := 0 })

/-- The two low bits of an offset are ignored, for reads and for writes (20_memory.md R52). -/
def Obligations.LowOffsetBitsAreIgnored : Prop :=
  ∀ (s : State) (off : Offset) (v : Word) (rest : List Event),
    step { s with inbox := .read off :: rest }
      = step { s with inbox := .read (off &&& 0xFFC#12) :: rest }
    ∧ step { s with inbox := .write off v :: rest }
      = step { s with inbox := .write (off &&& 0xFFC#12) v :: rest }

/-- A STATUS write clears each of DONE, CMDOVF and WERR where the written bit is 1 and leaves every
other bit unchanged, busy or not (10_state.md R27). -/
def Obligations.StatusWriteClearsOnlyItsBits : Prop :=
  ∀ s v, WritesWord s 0x008 v →
    step s = .next { s with
      inbox := s.inbox.tail
      status := { s.status with
        done := if v.getLsbD 1 then false else s.status.done
        cmdovf := if v.getLsbD 11 then false else s.status.cmdovf
        werr := if v.getLsbD 12 then false else s.status.werr } }

/-- CTRL (10_state.md R36): a write with bit 0 = 0 sets IE to bit 1 and changes nothing else, busy or
not; one with bit 0 = 1 resets, and its IE bit is discarded; a read shows IE in bit 1 and 0 elsewhere;
IE is 0 after reset. -/
def Obligations.CtrlWriteSetsEnableOrResets : Prop :=
  (∀ s v, WritesWord s 0x004 v →
    (v.getLsbD 0 = false →
      step s = .next { s with inbox := s.inbox.tail, ie := v.getLsbD 1 })
    ∧ (v.getLsbD 0 = true → ∃ t, step s = .next t ∧ IsReset t ∧ t.ie = false))
  ∧ (∀ (s : State) off rest, s.rst = false → s.inbox = .read off :: rest →
    wordOffset off = 0x004 →
    step s = .next { s with inbox := rest, rdata := if s.ie then 2 else 0 })
  ∧ State.reset.ie = false

/-- A reset, soft or by the input, puts every piece of state at its reset value and abandons a
command in flight; the next access sees that state.  No command that needs a modulus can start from
it.  The move `.rst b` sets the level of the input to b and no other move changes it, so that an
assertion holds until the release; a release of an input that is not asserted does nothing.

That asserting `rst` resets CORE in that very step, and that the release leaves it reset, is log entry
7 (DEDUCED: 70_reset_and_hazards.md R200 leaves the synchronisation open). -/
def Obligations.ResetLeavesTheResetState : Prop :=
  (∀ s, Resets s →
    ∃ t, step s = .next t ∧ IsReset t ∧ t.idWord = s.idWord ∧ t.inbox = s.inbox.tail
      ∧ (∀ c, c.modSel ≠ none → t.lacksModulus c = true))
  ∧ IsReset State.reset
  ∧ (∀ s b rest, s.inbox = .rst b :: rest → ∃ t, step s = .next t ∧ t.rst = b)
  ∧ (∀ s t, step s = .next t → (∀ b rest, s.inbox ≠ .rst b :: rest) → t.rst = s.rst)
  ∧ (∀ s rest, s.inbox = .rst false :: rest → s.rst = false →
    step s = .next { s with inbox := rest })

/-- While `rst` is asserted every bus write is ignored and every bus read returns an unspecified value
(70_reset_and_hazards.md R200), and CORE stays held through both.  That the sequencer then takes no
step is the model's reading of 'holds CORE in reset' (log entry 7, DEDUCED). -/
def Obligations.ResetInputHoldsCore : Prop :=
  ∀ s rest, s.rst = true →
    (∀ off v, s.inbox = .write off v :: rest → step s = .next { s with inbox := rest })
    ∧ (∀ off, s.inbox = .read off :: rest →
      step s = .next { s with
        inbox := rest, rdata := Config.any32 s.draws, draws := s.draws + 1 })
    ∧ (s.turn = .sequencer → step s = .next { s with inbox := s.inbox.tail })

/-- IRQ is CTRL.IE and STATUS.DONE; dropping a CMD write or a window write does not change it; and
masking does not clear DONE (60_exceptions.md R180, R181). -/
def Obligations.IrqIsEnableAndDone : Prop :=
  (∀ s : State, s.irq = (s.ie && s.status.done))
  ∧ (∀ s t, step s = .next t →
      DropsWord s ∨ (s.busy = true ∧ ∃ r k v, WritesWindow s r k v) → t.irq = s.irq)
  ∧ (∀ s t v, step s = .next t → WritesWord s 0x004 v → v.getLsbD 0 = false →
      t.status.done = s.status.done ∧ t.irq = (v.getLsbD 1 && s.status.done))

/-- BASE_ADDR is an argument: the host address base + off reaches offset off, and an address outside
the 4096 bytes from base reaches none (20_memory.md R50, R51). -/
def Obligations.HostAddressesReachTheWindow : Prop :=
  (∀ (base : Nat) (off : Offset), offsetOf base (base + off.toNat) = some off)
  ∧ (∀ base addr, addr < base ∨ base + 4096 ≤ addr → offsetOf base addr = none)

/-- A soft reset, `Reset()` of 70_reset_and_hazards.md R201: a CTRL write with bit 0 = 1, whatever its
other bits and whether or not a command is in flight, leaves every field and configuration register 0,
every point register IDENTITY, STATUS, CTRL and CMDLOG 0 and no record in flight; ID is not changed. -/
def Obligations.SoftResetPutsEverythingAtReset : Prop :=
  ∀ s v, WritesWord s 0x004 v → v.getLsbD 0 = true →
    ∃ t, step s = .next t ∧ (∀ i, t.x i = 0) ∧ (∀ i, t.pt i = ⟨0, 0, true⟩)
      ∧ t.cfg = ⟨0, 0, 0, 0, 0, 0, 0⟩ ∧ t.statusWord = 0 ∧ t.ctrlWord = 0 ∧ t.cmdlog = 0
      ∧ t.inflight = none ∧ t.idWord = s.idWord
end

