-- ==== Sys2Proof/Laws/State.lean ====
section
/-! SUPPORT. What each update of the state leaves alone and what it writes: one lemma per field per
update, so that no later proof unfolds a record update. -/

namespace Sys2Proof.Machine

/-! #### Register accessors -/

@[simp] theorem State.setX_x_self (s : State) (i : FReg) (v : Val) : (s.setX i v).x i = v := by
  simp [State.setX, State.x]

theorem State.setX_x_of_ne (s : State) {i j : FReg} (v : Val) (h : j ≠ i) :
    (s.setX i v).x j = s.x j := by
  have hne : i.val ≠ j.val := fun e => h (Fin.ext e.symm)
  simp [State.setX, State.x, Vector.getElem_set_ne, hne]

@[simp] theorem State.setPt_pt_self (s : State) (i : PReg) (u : Point) : (s.setPt i u).pt i = u := by
  simp [State.setPt, State.pt]

theorem State.setPt_pt_of_ne (s : State) {i j : PReg} (u : Point) (h : j ≠ i) :
    (s.setPt i u).pt j = s.pt j := by
  have hne : i.val ≠ j.val := fun e => h (Fin.ext e.symm)
  simp [State.setPt, State.pt, Vector.getElem_set_ne, hne]

@[simp] theorem State.setX_pt (s : State) (i : FReg) (v : Val) (j : PReg) :
    (s.setX i v).pt j = s.pt j := rfl

@[simp] theorem State.setPt_x (s : State) (i : PReg) (u : Point) (j : FReg) :
    (s.setPt i u).x j = s.x j := rfl

@[simp] theorem State.setCfgReg_cfgReg_self (s : State) (c : CfgReg) (v : Val) :
    (s.setCfgReg c v).cfgReg c = v := by
  cases c <;> rfl

theorem State.setCfgReg_cfgReg_of_ne (s : State) {c e : CfgReg} (v : Val) (h : e ≠ c) :
    (s.setCfgReg c v).cfgReg e = s.cfgReg e := by
  cases c <;> cases e <;> first | rfl | exact absurd rfl h

/-- A configuration write changes nothing but `cfg`. -/
theorem State.setCfgReg_eq (s : State) (c : CfgReg) (v : Val) :
    s.setCfgReg c v = { s with cfg := (s.setCfgReg c v).cfg } := by
  cases c <;> rfl

@[simp] theorem State.reset_x (i : FReg) : State.reset.x i = 0 := by
  simp [State.reset, State.x]

@[simp] theorem State.reset_pt (i : PReg) : State.reset.pt i = Point.identity := by
  simp [State.reset, State.pt]

@[simp] theorem State.reset_cfgReg (c : CfgReg) : State.reset.cfgReg c = 0 := by
  cases c <;> simp [State.reset, State.cfgReg]

/-! #### `State.setX` -/

@[simp] theorem State.setX_width (s : State) (i : FReg) (v : Val) : (s.setX i v).width = s.width := rfl
@[simp] theorem State.setX_pointRegs (s : State) (i : FReg) (v : Val) : (s.setX i v).pointRegs = s.pointRegs := rfl
@[simp] theorem State.setX_cfg (s : State) (i : FReg) (v : Val) : (s.setX i v).cfg = s.cfg := rfl
@[simp] theorem State.setX_status (s : State) (i : FReg) (v : Val) : (s.setX i v).status = s.status := rfl
@[simp] theorem State.setX_ie (s : State) (i : FReg) (v : Val) : (s.setX i v).ie = s.ie := rfl
@[simp] theorem State.setX_cmdlog (s : State) (i : FReg) (v : Val) : (s.setX i v).cmdlog = s.cmdlog := rfl
@[simp] theorem State.setX_inflight (s : State) (i : FReg) (v : Val) : (s.setX i v).inflight = s.inflight := rfl
@[simp] theorem State.setX_rst (s : State) (i : FReg) (v : Val) : (s.setX i v).rst = s.rst := rfl
@[simp] theorem State.setX_inbox (s : State) (i : FReg) (v : Val) : (s.setX i v).inbox = s.inbox := rfl
@[simp] theorem State.setX_rdata (s : State) (i : FReg) (v : Val) : (s.setX i v).rdata = s.rdata := rfl
@[simp] theorem State.setX_draws (s : State) (i : FReg) (v : Val) : (s.setX i v).draws = s.draws := rfl

/-! #### `State.setPt` -/

@[simp] theorem State.setPt_width (s : State) (i : PReg) (u : Point) : (s.setPt i u).width = s.width := rfl
@[simp] theorem State.setPt_fieldRegs (s : State) (i : PReg) (u : Point) : (s.setPt i u).fieldRegs = s.fieldRegs := rfl
@[simp] theorem State.setPt_cfg (s : State) (i : PReg) (u : Point) : (s.setPt i u).cfg = s.cfg := rfl
@[simp] theorem State.setPt_status (s : State) (i : PReg) (u : Point) : (s.setPt i u).status = s.status := rfl
@[simp] theorem State.setPt_ie (s : State) (i : PReg) (u : Point) : (s.setPt i u).ie = s.ie := rfl
@[simp] theorem State.setPt_cmdlog (s : State) (i : PReg) (u : Point) : (s.setPt i u).cmdlog = s.cmdlog := rfl
@[simp] theorem State.setPt_inflight (s : State) (i : PReg) (u : Point) : (s.setPt i u).inflight = s.inflight := rfl
@[simp] theorem State.setPt_rst (s : State) (i : PReg) (u : Point) : (s.setPt i u).rst = s.rst := rfl
@[simp] theorem State.setPt_inbox (s : State) (i : PReg) (u : Point) : (s.setPt i u).inbox = s.inbox := rfl
@[simp] theorem State.setPt_rdata (s : State) (i : PReg) (u : Point) : (s.setPt i u).rdata = s.rdata := rfl
@[simp] theorem State.setPt_draws (s : State) (i : PReg) (u : Point) : (s.setPt i u).draws = s.draws := rfl

/-! #### `State.raise` -/

@[simp] theorem State.raise_width (s : State) (code : ErrCode) : (s.raise code).width = s.width := rfl
@[simp] theorem State.raise_fieldRegs (s : State) (code : ErrCode) : (s.raise code).fieldRegs = s.fieldRegs := rfl
@[simp] theorem State.raise_pointRegs (s : State) (code : ErrCode) : (s.raise code).pointRegs = s.pointRegs := rfl
@[simp] theorem State.raise_cfg (s : State) (code : ErrCode) : (s.raise code).cfg = s.cfg := rfl
@[simp] theorem State.raise_ie (s : State) (code : ErrCode) : (s.raise code).ie = s.ie := rfl
@[simp] theorem State.raise_cmdlog (s : State) (code : ErrCode) : (s.raise code).cmdlog = s.cmdlog := rfl
@[simp] theorem State.raise_inflight (s : State) (code : ErrCode) : (s.raise code).inflight = s.inflight := rfl
@[simp] theorem State.raise_rst (s : State) (code : ErrCode) : (s.raise code).rst = s.rst := rfl
@[simp] theorem State.raise_inbox (s : State) (code : ErrCode) : (s.raise code).inbox = s.inbox := rfl
@[simp] theorem State.raise_rdata (s : State) (code : ErrCode) : (s.raise code).rdata = s.rdata := rfl
@[simp] theorem State.raise_draws (s : State) (code : ErrCode) : (s.raise code).draws = s.draws := rfl
@[simp] theorem State.raise_status (s : State) (code : ErrCode) :
    (s.raise code).status = { s.status with err := code, done := true } := rfl

/-! #### `State.acceptWord` -/

@[simp] theorem State.acceptWord_width (s : State) (w : Word) : (s.acceptWord w).width = s.width := rfl
@[simp] theorem State.acceptWord_fieldRegs (s : State) (w : Word) : (s.acceptWord w).fieldRegs = s.fieldRegs := rfl
@[simp] theorem State.acceptWord_pointRegs (s : State) (w : Word) : (s.acceptWord w).pointRegs = s.pointRegs := rfl
@[simp] theorem State.acceptWord_cfg (s : State) (w : Word) : (s.acceptWord w).cfg = s.cfg := rfl
@[simp] theorem State.acceptWord_ie (s : State) (w : Word) : (s.acceptWord w).ie = s.ie := rfl
@[simp] theorem State.acceptWord_inflight (s : State) (w : Word) : (s.acceptWord w).inflight = s.inflight := rfl
@[simp] theorem State.acceptWord_rst (s : State) (w : Word) : (s.acceptWord w).rst = s.rst := rfl
@[simp] theorem State.acceptWord_inbox (s : State) (w : Word) : (s.acceptWord w).inbox = s.inbox := rfl
@[simp] theorem State.acceptWord_rdata (s : State) (w : Word) : (s.acceptWord w).rdata = s.rdata := rfl
@[simp] theorem State.acceptWord_draws (s : State) (w : Word) : (s.acceptWord w).draws = s.draws := rfl
@[simp] theorem State.acceptWord_status (s : State) (w : Word) :
    (s.acceptWord w).status = { s.status with done := false, err := .ok } := rfl
@[simp] theorem State.acceptWord_cmdlog (s : State) (w : Word) : (s.acceptWord w).cmdlog = w := rfl

/-! #### `State.dropCommand` -/

@[simp] theorem State.dropCommand_width (s : State) : (s.dropCommand).width = s.width := rfl
@[simp] theorem State.dropCommand_fieldRegs (s : State) : (s.dropCommand).fieldRegs = s.fieldRegs := rfl
@[simp] theorem State.dropCommand_pointRegs (s : State) : (s.dropCommand).pointRegs = s.pointRegs := rfl
@[simp] theorem State.dropCommand_cfg (s : State) : (s.dropCommand).cfg = s.cfg := rfl
@[simp] theorem State.dropCommand_ie (s : State) : (s.dropCommand).ie = s.ie := rfl
@[simp] theorem State.dropCommand_cmdlog (s : State) : (s.dropCommand).cmdlog = s.cmdlog := rfl
@[simp] theorem State.dropCommand_inflight (s : State) : (s.dropCommand).inflight = s.inflight := rfl
@[simp] theorem State.dropCommand_rst (s : State) : (s.dropCommand).rst = s.rst := rfl
@[simp] theorem State.dropCommand_inbox (s : State) : (s.dropCommand).inbox = s.inbox := rfl
@[simp] theorem State.dropCommand_rdata (s : State) : (s.dropCommand).rdata = s.rdata := rfl
@[simp] theorem State.dropCommand_draws (s : State) : (s.dropCommand).draws = s.draws := rfl
@[simp] theorem State.dropCommand_status (s : State) :
    s.dropCommand.status = { s.status with cmdovf := true } := rfl

/-! #### `State.writeStatus` -/

@[simp] theorem State.writeStatus_width (s : State) (v : Word) : (s.writeStatus v).width = s.width := rfl
@[simp] theorem State.writeStatus_fieldRegs (s : State) (v : Word) : (s.writeStatus v).fieldRegs = s.fieldRegs := rfl
@[simp] theorem State.writeStatus_pointRegs (s : State) (v : Word) : (s.writeStatus v).pointRegs = s.pointRegs := rfl
@[simp] theorem State.writeStatus_cfg (s : State) (v : Word) : (s.writeStatus v).cfg = s.cfg := rfl
@[simp] theorem State.writeStatus_ie (s : State) (v : Word) : (s.writeStatus v).ie = s.ie := rfl
@[simp] theorem State.writeStatus_cmdlog (s : State) (v : Word) : (s.writeStatus v).cmdlog = s.cmdlog := rfl
@[simp] theorem State.writeStatus_inflight (s : State) (v : Word) : (s.writeStatus v).inflight = s.inflight := rfl
@[simp] theorem State.writeStatus_rst (s : State) (v : Word) : (s.writeStatus v).rst = s.rst := rfl
@[simp] theorem State.writeStatus_inbox (s : State) (v : Word) : (s.writeStatus v).inbox = s.inbox := rfl
@[simp] theorem State.writeStatus_rdata (s : State) (v : Word) : (s.writeStatus v).rdata = s.rdata := rfl
@[simp] theorem State.writeStatus_draws (s : State) (v : Word) : (s.writeStatus v).draws = s.draws := rfl

/-! #### `State.advance` -/

@[simp] theorem State.advance_width (s : State) : (s.advance).width = s.width := rfl
@[simp] theorem State.advance_fieldRegs (s : State) : (s.advance).fieldRegs = s.fieldRegs := rfl
@[simp] theorem State.advance_pointRegs (s : State) : (s.advance).pointRegs = s.pointRegs := rfl
@[simp] theorem State.advance_cfg (s : State) : (s.advance).cfg = s.cfg := rfl
@[simp] theorem State.advance_status (s : State) : (s.advance).status = s.status := rfl
@[simp] theorem State.advance_ie (s : State) : (s.advance).ie = s.ie := rfl
@[simp] theorem State.advance_cmdlog (s : State) : (s.advance).cmdlog = s.cmdlog := rfl
@[simp] theorem State.advance_inflight (s : State) : (s.advance).inflight = s.inflight := rfl
@[simp] theorem State.advance_rst (s : State) : (s.advance).rst = s.rst := rfl
@[simp] theorem State.advance_rdata (s : State) : (s.advance).rdata = s.rdata := rfl
@[simp] theorem State.advance_draws (s : State) : (s.advance).draws = s.draws := rfl
@[simp] theorem State.advance_inbox (s : State) : s.advance.inbox = s.inbox.tail := rfl

/-! #### `State.withCommand` -/

@[simp] theorem State.withCommand_width (s : State) (w : Word) : (s.withCommand w).width = s.width := rfl
@[simp] theorem State.withCommand_fieldRegs (s : State) (w : Word) : (s.withCommand w).fieldRegs = s.fieldRegs := rfl
@[simp] theorem State.withCommand_pointRegs (s : State) (w : Word) : (s.withCommand w).pointRegs = s.pointRegs := rfl
@[simp] theorem State.withCommand_cfg (s : State) (w : Word) : (s.withCommand w).cfg = s.cfg := rfl
@[simp] theorem State.withCommand_status (s : State) (w : Word) : (s.withCommand w).status = s.status := rfl
@[simp] theorem State.withCommand_ie (s : State) (w : Word) : (s.withCommand w).ie = s.ie := rfl
@[simp] theorem State.withCommand_cmdlog (s : State) (w : Word) : (s.withCommand w).cmdlog = s.cmdlog := rfl
@[simp] theorem State.withCommand_rdata (s : State) (w : Word) : (s.withCommand w).rdata = s.rdata := rfl
@[simp] theorem State.withCommand_draws (s : State) (w : Word) : (s.withCommand w).draws = s.draws := rfl
@[simp] theorem State.withCommand_inbox (s : State) (w : Word) :
    (s.withCommand w).inbox = .write 0x00C#12 w :: s.inbox := rfl
@[simp] theorem State.withCommand_rst (s : State) (w : Word) : (s.withCommand w).rst = false := rfl
@[simp] theorem State.withCommand_inflight (s : State) (w : Word) :
    (s.withCommand w).inflight = none := rfl

/-! #### `State.resetCore` -/

@[simp] theorem State.resetCore_width (s : State) : (s.resetCore).width = s.width := rfl
@[simp] theorem State.resetCore_rst (s : State) : (s.resetCore).rst = s.rst := rfl
@[simp] theorem State.resetCore_inbox (s : State) : (s.resetCore).inbox = s.inbox := rfl
@[simp] theorem State.resetCore_rdata (s : State) : (s.resetCore).rdata = s.rdata := rfl
@[simp] theorem State.resetCore_draws (s : State) : (s.resetCore).draws = s.draws := rfl
@[simp] theorem State.resetCore_fieldRegs (s : State) : s.resetCore.fieldRegs = State.reset.fieldRegs := rfl
@[simp] theorem State.resetCore_pointRegs (s : State) : s.resetCore.pointRegs = State.reset.pointRegs := rfl
@[simp] theorem State.resetCore_cfg (s : State) : s.resetCore.cfg = State.reset.cfg := rfl
@[simp] theorem State.resetCore_status (s : State) : s.resetCore.status = State.reset.status := rfl
@[simp] theorem State.resetCore_ie (s : State) : s.resetCore.ie = State.reset.ie := rfl
@[simp] theorem State.resetCore_cmdlog (s : State) : s.resetCore.cmdlog = State.reset.cmdlog := rfl
@[simp] theorem State.resetCore_inflight (s : State) : s.resetCore.inflight = State.reset.inflight := rfl

/-! ### The flags a completion writes -/

@[simp] theorem Status.withFlags_z (t : Status) (z id ni : Bool) :
    (t.withFlags z id ni).z = z := rfl
@[simp] theorem Status.withFlags_id (t : Status) (z id ni : Bool) :
    (t.withFlags z id ni).id = id := rfl
@[simp] theorem Status.withFlags_ni (t : Status) (z id ni : Bool) :
    (t.withFlags z id ni).ni = ni := rfl
@[simp] theorem Status.withFlags_done (t : Status) (z id ni : Bool) :
    (t.withFlags z id ni).done = t.done := rfl
@[simp] theorem Status.withFlags_err (t : Status) (z id ni : Bool) :
    (t.withFlags z id ni).err = t.err := rfl
@[simp] theorem Status.withFlags_cmdovf (t : Status) (z id ni : Bool) :
    (t.withFlags z id ni).cmdovf = t.cmdovf := rfl
@[simp] theorem Status.withFlags_werr (t : Status) (z id ni : Bool) :
    (t.withFlags z id ni).werr = t.werr := rfl

end Sys2Proof.Machine
end

