-- ==== Sys2Proof/Laws/Ops.lean ====
section
/-! SUPPORT. What the shared operations can do, said once: issuing, completing, a command's part in
a step, the bus, and one step. -/

namespace Sys2Proof.Machine

/-! ### A command's part in a step -/

/-- `Exec(c, snap)` (20_memory.md R66): what each command makes of its record. -/
def Inflight.result (r : Inflight) : Result :=
  match r.cmd with
  | .fadd _ d _ _ => fieldResult d (addMod r.snap.modulus r.snap.xa r.snap.xb)
  | .fsub _ d _ _ => fieldResult d (subMod r.snap.modulus r.snap.xa r.snap.xb)
  | .fmul _ d _ _ => fieldResult d (mulMod r.snap.modulus r.snap.xa r.snap.xb)
  | .fsqr _ d _ => fieldResult d (mulMod r.snap.modulus r.snap.xa r.snap.xa)
  | .fneg _ d _ => fieldResult d (negMod r.snap.modulus r.snap.xa)
  | .fred _ d _ => fieldResult d (redMod r.snap.modulus r.snap.xa)
  | .finv _ d _ => inverseResult d (invVal r.snap.modulus r.snap.xa)
  | .fmov d _ => fieldResult d r.snap.xa
  | .padd d _ _ => pointResult d (addPoints r.snap.modulus r.snap.coeffA r.snap.pa r.snap.pb)
  | .pmul d _ _ => pointResult d (r.work.finish r.snap.modulus r.snap.coeffA)
  | .pldg d => pointResult d ⟨r.snap.gx, r.snap.gy, false⟩
  | .pseti d => pointResult d Point.identity
  | .pmov d _ => pointResult d r.snap.pa
  | .pset d _ _ => pointResult d ⟨r.snap.xa, r.snap.xb, false⟩
  | .pgetx d _ => coordResult d r.snap.pa r.snap.pa.x
  | .pgety d _ => coordResult d r.snap.pa r.snap.pa.y

/-- On the host's turn every command issues its own word. -/
theorem exec_of_host (i : Instr) {s : State} (h : s.turn = .host) :
    exec i s = .next (s.issue (encode i) (some i)) := by
  cases i <;>
    simp [exec, execFadd, execFsub, execFmul, execFsqr, execFneg, execFred, execFinv, execFmov,
      execPadd, execPmul, execPldg, execPseti, execPmov, execPset, execPgetx, execPgety,
      runCommand, h]

/-- On the sequencer's turn the command in flight completes with its result. -/
theorem exec_of_sequencer {s : State} {r : Inflight} (h : s.turn = .sequencer)
    (hr : s.inflight = some r) : exec r.cmd s = .next (s.complete r.result) := by
  obtain ⟨c, snap, work⟩ := r
  cases c <;>
    simp [exec, execFadd, execFsub, execFmul, execFsqr, execFneg, execFred, execFinv, execFmov,
      execPadd, execPmul, execPldg, execPseti, execPmov, execPset, execPgetx, execPgety,
      runCommand, Inflight.result, h, hr]

/-- On the sequencer's turn a command that is not in flight takes no step. -/
theorem exec_of_not_in_flight (i : Instr) {s : State} (h : s.turn = .sequencer)
    (hr : ∀ r, s.inflight = some r → r.cmd ≠ i) : exec i s = .next s := by
  rcases hf : s.inflight with _ | r
  · cases i <;>
      simp [exec, execFadd, execFsub, execFmul, execFsqr, execFneg, execFred, execFinv, execFmov,
        execPadd, execPmul, execPldg, execPseti, execPmov, execPset, execPgetx, execPgety,
        runCommand, h, hf]
  · have hne := hr r hf
    cases i <;>
      simp [exec, execFadd, execFsub, execFmul, execFsqr, execFneg, execFred, execFinv, execFmov,
        execPadd, execPmul, execPldg, execPseti, execPmov, execPset, execPgetx, execPgety,
        runCommand, h, hf, hne]

/-! ### Issuing and completing -/

/-- Everything a CMD write can do (20_memory.md R64, 60_exceptions.md R179). -/
theorem State.issue_cases (s : State) (w : Word) (c : Option Instr) :
    (s.busy = true ∧ s.issue w c = s.dropCommand)
      ∨ (s.busy = false ∧ c = none ∧ s.issue w c = (s.acceptWord w).raise .illegal)
      ∨ (∃ i, s.busy = false ∧ c = some i ∧ s.lacksModulus i = true
          ∧ s.issue w c = (s.acceptWord w).raise .modulus)
      ∨ (∃ i, s.busy = false ∧ c = some i ∧ s.lacksModulus i = false
          ∧ s.issue w c = { s.acceptWord w with inflight := some (s.record i) }) := by
  unfold State.issue
  cases hb : s.busy with
  | true => exact .inl ⟨rfl, by simp⟩
  | false =>
    cases c with
    | none => exact .inr (.inl ⟨rfl, rfl, by simp⟩)
    | some i =>
      cases hm : s.lacksModulus i with
      | true => exact .inr (.inr (.inl ⟨i, rfl, rfl, hm, by simp [hm]⟩))
      | false => exact .inr (.inr (.inr ⟨i, rfl, rfl, hm, by simp [hm]⟩))

/-- A completion changes the destination's register file, the flags, DONE and the record, and
nothing else. -/
theorem State.complete_eq (s : State) (r : Result) :
    s.complete r = { s with
      fieldRegs := (s.write r.dest).fieldRegs
      pointRegs := (s.write r.dest).pointRegs
      status := { s.status.withFlags r.z r.id r.ni with done := true }
      inflight := none } := by
  cases hd : r.dest <;> simp [State.complete, State.write, State.setX, State.setPt, hd]

@[simp] theorem State.complete_busy (s : State) (r : Result) : (s.complete r).busy = false := rfl

/-! ### Windows and words -/

/-- Word k of the window of r is where the register map puts it (20_memory.md R53, R57). -/
theorem windowAt_base (r : WindowReg) {k : Nat} (hk : k < 16) :
    windowAt (r.base + 4 * k) = some (r, k) := by
  obtain ⟨j, rfl⟩ : ∃ j : Fin 16, j.val = k := ⟨⟨k, hk⟩, rfl⟩
  rcases r with c | i
  · cases c <;> revert j <;> decide
  · revert i j; decide +kernel

/-- A window lookup answers only a word of that window. -/
theorem windowAt_eq_some {o : Nat} {r : WindowReg} {k : Nat} (h : windowAt o = some (r, k)) :
    r.base ≤ o ∧ o < r.base + 0x40 ∧ k = (o - r.base) / 4 := by
  unfold windowAt at h
  rw [Option.map_eq_some_iff] at h
  obtain ⟨r', hf, he⟩ := h
  have hp := List.find?_some hf
  simp only [Bool.and_eq_true, decide_eq_true_eq] at hp
  obtain ⟨rfl, rfl⟩ := Prod.mk.injEq .. ▸ he
  exact ⟨hp.1, hp.2, rfl⟩

/-- Bit j of word k is bit 32k + j of the register (20_memory.md R54). -/
theorem wordOf_getLsbD (v : Val) (k j : Nat) :
    (wordOf v k).getLsbD j = (decide (j < 32) && v.getLsbD (32 * k + j)) := by
  simp [wordOf]

/-- A word written reads back, and every other bit of the register is unchanged. -/
theorem putWord_getLsbD (v : Val) (w : Word) (k : Nat) (n : Nat) (hn : n < 512) :
    (putWord v k w).getLsbD n
      = if 32 * k ≤ n ∧ n < 32 * k + 32 then w.getLsbD (n - 32 * k) else v.getLsbD n := by
  unfold putWord
  simp only [BitVec.getLsbD_or, BitVec.getLsbD_and, BitVec.getLsbD_not, BitVec.getLsbD_shiftLeft,
    BitVec.getLsbD_setWidth, BitVec.getLsbD_allOnes, hn, decide_true, Bool.true_and]
  by_cases h1 : n < 32 * k
  · simp [h1, show ¬ 32 * k ≤ n by omega]
  · by_cases h2 : n < 32 * k + 32
    · have : n - 32 * k < 32 := by omega
      simp [h1, h2, show 32 * k ≤ n by omega, this, show n - 32 * k < 512 by omega]
    · have hw : w.getLsbD (n - 32 * k) = false := BitVec.getLsbD_of_ge _ _ (by omega)
      simp [h1, h2, show ¬ n - 32 * k < 32 by omega, hw]

theorem wordOf_putWord_self (v : Val) (w : Word) {k : Nat} (hk : k < 16) :
    wordOf (putWord v k w) k = w := by
  apply BitVec.eq_of_getLsbD_eq
  intro j hj
  rw [wordOf_getLsbD, putWord_getLsbD v w k _ (by omega)]
  simp [hj]

theorem wordOf_putWord_of_ne (v : Val) (w : Word) {k l : Nat} (hl : l < 16) (h : l ≠ k) :
    wordOf (putWord v k w) l = wordOf v l := by
  apply BitVec.eq_of_getLsbD_eq
  intro j hj
  rw [wordOf_getLsbD, wordOf_getLsbD, putWord_getLsbD v w k _ (by omega),
    if_neg (by omega)]

end Sys2Proof.Machine
end

