-- ==== Sys2Proof/Laws/PerInstr.lean ====
section
/-! SUPPORT. What holds of every command as syntax: its word passes the checks of 30_encoding.md
R82 to R85. -/

namespace Sys2Proof.Laws

/-- The fields of a word built from fields are those fields (30_encoding.md R81). -/
theorem ofWord_toWord (f : Fields) : Fields.ofWord f.toWord = f := by
  obtain ⟨opc, ms, rsv1, d, a, b, rsv0⟩ := f
  simp only [Fields.ofWord, Fields.toWord, Fields.mk.injEq]
  refine ⟨?_, ?_, ?_, ?_, ?_, ?_, ?_⟩ <;>
    (apply BitVec.eq_of_getLsbD_eq
     intro i hi
     interval_cases i <;> simp)

/-- A command is well-formed when its fields are. -/
theorem wellFormed_iff_fields (i : Instr) : i.wellFormed = i.fields.wellFormed := by
  rw [Instr.wellFormed, encode, ofWord_toWord]

/-- Every opcode is the one the opcode map gives its mnemonic (30_encoding.md R86). -/
theorem opc_known (op : Op) : Op.ofOpc op.opc = some op := by
  cases op <;> rfl

/-- A point index leaves bit 3 of its field at 0 (30_encoding.md R85). -/
theorem pointBits_lt (i : PReg) : (PReg.bits i).toNat < 8 := by
  have h : i.val % 16 < 8 := by have := i.isLt; omega
  simpa [PReg.bits] using h

end Sys2Proof.Laws

namespace Sys2Proof.Laws.EncodeWellFormed

/-- The command's word is well-formed. -/
def Statement (i : Instr) : Prop := i.wellFormed = true

theorem fadd (ms : ModSel) (d a b : FReg) : Statement (.fadd ms d a b) := by
  simp [Statement, wellFormed_iff_fields, Instr.fields, Fields.wellFormed, opc_known, Op.roles,
    Role.admits]

theorem fsub (ms : ModSel) (d a b : FReg) : Statement (.fsub ms d a b) := by
  simp [Statement, wellFormed_iff_fields, Instr.fields, Fields.wellFormed, opc_known, Op.roles,
    Role.admits]

theorem fmul (ms : ModSel) (d a b : FReg) : Statement (.fmul ms d a b) := by
  simp [Statement, wellFormed_iff_fields, Instr.fields, Fields.wellFormed, opc_known, Op.roles,
    Role.admits]

theorem fsqr (ms : ModSel) (d a : FReg) : Statement (.fsqr ms d a) := by
  simp [Statement, wellFormed_iff_fields, Instr.fields, Fields.wellFormed, opc_known, Op.roles,
    Role.admits]

theorem fneg (ms : ModSel) (d a : FReg) : Statement (.fneg ms d a) := by
  simp [Statement, wellFormed_iff_fields, Instr.fields, Fields.wellFormed, opc_known, Op.roles,
    Role.admits]

theorem fred (ms : ModSel) (d a : FReg) : Statement (.fred ms d a) := by
  simp [Statement, wellFormed_iff_fields, Instr.fields, Fields.wellFormed, opc_known, Op.roles,
    Role.admits]

theorem finv (ms : ModSel) (d a : FReg) : Statement (.finv ms d a) := by
  simp [Statement, wellFormed_iff_fields, Instr.fields, Fields.wellFormed, opc_known, Op.roles,
    Role.admits]

theorem fmov (d a : FReg) : Statement (.fmov d a) := by
  simp [Statement, wellFormed_iff_fields, Instr.fields, Fields.wellFormed, opc_known, Op.roles,
    Role.admits]

theorem padd (d a b : PReg) : Statement (.padd d a b) := by
  simp [Statement, wellFormed_iff_fields, Instr.fields, Fields.wellFormed, opc_known, Op.roles,
    Role.admits, pointBits_lt]

theorem pmul (d a : PReg) (b : FReg) : Statement (.pmul d a b) := by
  simp [Statement, wellFormed_iff_fields, Instr.fields, Fields.wellFormed, opc_known, Op.roles,
    Role.admits, pointBits_lt]

theorem pldg (d : PReg) : Statement (.pldg d) := by
  simp [Statement, wellFormed_iff_fields, Instr.fields, Fields.wellFormed, opc_known, Op.roles,
    Role.admits, pointBits_lt]

theorem pseti (d : PReg) : Statement (.pseti d) := by
  simp [Statement, wellFormed_iff_fields, Instr.fields, Fields.wellFormed, opc_known, Op.roles,
    Role.admits, pointBits_lt]

theorem pmov (d a : PReg) : Statement (.pmov d a) := by
  simp [Statement, wellFormed_iff_fields, Instr.fields, Fields.wellFormed, opc_known, Op.roles,
    Role.admits, pointBits_lt]

theorem pset (d : PReg) (a b : FReg) : Statement (.pset d a b) := by
  simp [Statement, wellFormed_iff_fields, Instr.fields, Fields.wellFormed, opc_known, Op.roles,
    Role.admits, pointBits_lt]

theorem pgetx (d : FReg) (a : PReg) : Statement (.pgetx d a) := by
  simp [Statement, wellFormed_iff_fields, Instr.fields, Fields.wellFormed, opc_known, Op.roles,
    Role.admits, pointBits_lt]

theorem pgety (d : FReg) (a : PReg) : Statement (.pgety d a) := by
  simp [Statement, wellFormed_iff_fields, Instr.fields, Fields.wellFormed, opc_known, Op.roles,
    Role.admits, pointBits_lt]

end Sys2Proof.Laws.EncodeWellFormed
end

