-- ==== Sys2Proof/Laws/Step.lean ====
section
/-! SUPPORT. What one step can do, case by case; later proofs cite these lemmas and do not unfold
`step`. -/

namespace Sys2Proof.Machine

/-- A bus write at the head of the inbox is the host's move. -/
theorem turn_of_write {s : State} {off : Offset} {v : Word} {rest : List Event}
    (h : s.inbox = .write off v :: rest) : s.turn = .host := by
  simp [State.turn, h]

/-- A CMD write of a word that decodes issues that command. -/
theorem step_of_command {s : State} {w : Word} {i : Instr} (h : WritesWord s 0x00C w)
    (hd : decode w = some i) : step s = .next (s.issue (encode i) (some i)).advance := by
  obtain ⟨hr, off, rest, hi, ho⟩ := h
  have ht := turn_of_write hi
  have hf : s.fetch = some i := by simp [State.fetch, ht, State.commandWord, hi, hr, ho, hd]
  simp [step, hf, exec_of_host i ht, advanceOutcome]

/-- A CMD write of a word that is no command. -/
theorem step_of_illegal {s : State} {w : Word} (h : WritesWord s 0x00C w) (hd : decode w = none) :
    step s = .next (s.issue w none).advance := by
  obtain ⟨hr, off, rest, hi, ho⟩ := h
  have ht := turn_of_write hi
  have hf : s.fetch = none := by simp [State.fetch, ht, State.commandWord, hi, hr, ho, hd]
  simp [step, hf, State.otherStep, hi, State.busWrite, hr, ho, State.writeCmd, hd]

/-- A write that does not reach CMD, or is made while `rst` is asserted. -/
theorem step_of_write {s : State} {off : Offset} {v : Word} {rest : List Event}
    (hi : s.inbox = .write off v :: rest) (h : s.rst = true ∨ wordOffset off ≠ 0x00C) :
    step s = .next (s.busWrite off v).advance := by
  have hw : s.commandWord = none := by
    rcases h with h | h <;> simp [State.commandWord, hi, h]
  have hf : s.fetch = none := by simp [State.fetch, turn_of_write hi, hw]
  simp [step, hf, State.otherStep, hi]

/-- A bus read. -/
theorem step_of_read {s : State} {off : Offset} {rest : List Event}
    (hi : s.inbox = .read off :: rest) : step s = .next (s.busRead off).advance := by
  have hf : s.fetch = none := by simp [State.fetch, State.turn, State.commandWord, hi]
  simp [step, hf, State.otherStep, hi]

/-- A change of the reset input. -/
theorem step_of_rst {s : State} {b : Bool} {rest : List Event} (hi : s.inbox = .rst b :: rest) :
    step s = .next (s.driveRst b).advance := by
  have hf : s.fetch = none := by simp [State.fetch, State.turn, State.commandWord, hi]
  simp [step, hf, State.otherStep, hi]

/-- The sequencer's turn with a command in flight, out of reset: the command completes. -/
theorem step_of_completion {s : State} {r : Inflight} (ht : s.turn = .sequencer)
    (hr : s.rst = false) (hf : s.inflight = some r) :
    step s = .next (s.complete r.result).advance := by
  have hc : s.fetch = some r.cmd := by simp [State.fetch, ht, hr, hf]
  simp [step, hc, exec_of_sequencer ht hf, advanceOutcome]

/-- A turn on which nobody has a step to take. -/
theorem step_of_nothing {s : State} (hi : (∃ rest, s.inbox = .sequencer :: rest) ∨ s.inbox = [])
    (h : s.rst = true ∨ s.inflight = none) : step s = .next s.advance := by
  have hf : s.fetch = none := by
    rcases hi with ⟨rest, hi⟩ | hi <;> rcases h with h | h <;>
      simp [State.fetch, State.turn, State.commandWord, State.busy, hi, h]
    split <;> rfl
  rcases hi with ⟨rest, hi⟩ | hi <;> simp [step, hf, State.otherStep, hi]

/-- Everything a step can do. -/
theorem step_cases (s : State) :
    (∃ w i, WritesWord s 0x00C w ∧ decode w = some i
        ∧ step s = .next (s.issue (encode i) (some i)).advance)
    ∨ (∃ w, WritesWord s 0x00C w ∧ decode w = none ∧ step s = .next (s.issue w none).advance)
    ∨ (∃ off v rest, s.inbox = .write off v :: rest ∧ (s.rst = true ∨ wordOffset off ≠ 0x00C)
        ∧ step s = .next (s.busWrite off v).advance)
    ∨ (∃ off rest, s.inbox = .read off :: rest ∧ step s = .next (s.busRead off).advance)
    ∨ (∃ b rest, s.inbox = .rst b :: rest ∧ step s = .next (s.driveRst b).advance)
    ∨ (∃ r, s.turn = .sequencer ∧ s.rst = false ∧ s.inflight = some r
        ∧ ((∃ rest, s.inbox = .sequencer :: rest) ∨ s.inbox = [])
        ∧ step s = .next (s.complete r.result).advance)
    ∨ (((∃ rest, s.inbox = .sequencer :: rest) ∨ s.inbox = [])
        ∧ (s.rst = true ∨ s.inflight = none) ∧ step s = .next s.advance) := by
  rcases hi : s.inbox with _ | ⟨e, rest⟩
  · rcases hr : s.rst with _ | _
    · rcases hf : s.inflight with _ | r
      · exact .inr (.inr (.inr (.inr (.inr (.inr ⟨.inr rfl, .inr rfl,
          step_of_nothing (.inr hi) (.inr hf)⟩)))))
      · have ht : s.turn = .sequencer := by simp [State.turn, hi, State.busy, hf]
        exact .inr (.inr (.inr (.inr (.inr (.inl ⟨r, ht, rfl, rfl, .inr rfl,
          step_of_completion ht hr hf⟩)))))
    · exact .inr (.inr (.inr (.inr (.inr (.inr ⟨.inr rfl, .inl rfl,
        step_of_nothing (.inr hi) (.inl hr)⟩)))))
  · rcases e with off | ⟨off, v⟩ | _ | b
    · exact .inr (.inr (.inr (.inl ⟨off, rest, rfl, step_of_read hi⟩)))
    · by_cases hc : s.rst = false ∧ wordOffset off = 0x00C
      · have hw : WritesWord s 0x00C v := ⟨hc.1, off, rest, hi, hc.2⟩
        rcases hd : decode v with _ | i
        · exact .inr (.inl ⟨v, hw, hd, step_of_illegal hw hd⟩)
        · exact .inl ⟨v, i, hw, hd, step_of_command hw hd⟩
      · have h : s.rst = true ∨ wordOffset off ≠ 0x00C := by
          by_cases hr : s.rst = false
          · exact .inr fun ho => hc ⟨hr, ho⟩
          · exact .inl (by simpa using hr)
        exact .inr (.inr (.inl ⟨off, v, rest, rfl, h, step_of_write hi h⟩))
    · have ht : s.turn = .sequencer := by simp [State.turn, hi]
      rcases hr : s.rst with _ | _
      · rcases hf : s.inflight with _ | r
        · exact .inr (.inr (.inr (.inr (.inr (.inr ⟨.inl ⟨rest, rfl⟩, .inr rfl,
            step_of_nothing (.inl ⟨rest, hi⟩) (.inr hf)⟩)))))
        · exact .inr (.inr (.inr (.inr (.inr (.inl ⟨r, ht, rfl, rfl, .inl ⟨rest, rfl⟩,
            step_of_completion ht hr hf⟩)))))
      · exact .inr (.inr (.inr (.inr (.inr (.inr ⟨.inl ⟨rest, rfl⟩, .inl rfl,
          step_of_nothing (.inl ⟨rest, hi⟩) (.inl hr)⟩)))))
    · exact .inr (.inr (.inr (.inr (.inl ⟨b, rest, rfl, step_of_rst hi⟩))))

/-! ### The inbox, and runs of several steps -/

@[simp] theorem State.issue_inbox (s : State) (w : Word) (c : Option Instr) :
    (s.issue w c).inbox = s.inbox := by
  unfold State.issue
  split
  · rfl
  · cases c with
    | none => rfl
    | some c => simp only; split <;> rfl

@[simp] theorem State.busRead_inbox (s : State) (off : Offset) : (s.busRead off).inbox = s.inbox := by
  unfold State.busRead; split <;> rfl

@[simp] theorem State.driveRst_inbox (s : State) (b : Bool) : (s.driveRst b).inbox = s.inbox := by
  unfold State.driveRst; split <;> rfl

@[simp] theorem State.complete_inbox (s : State) (r : Result) : (s.complete r).inbox = s.inbox := by
  unfold State.complete State.write; cases r.dest <;> rfl

@[simp] theorem State.setWindowReg_inbox (s : State) (r : WindowReg) (v : Val) :
    (s.setWindowReg r v).inbox = s.inbox := by
  rcases r with c | i
  · cases c <;> rfl
  · rfl

@[simp] theorem State.busWrite_inbox (s : State) (off : Offset) (v : Word) :
    (s.busWrite off v).inbox = s.inbox := by
  unfold State.busWrite
  split
  · rfl
  · split
    · unfold State.writeCtrl; split <;> rfl
    · rfl
    · unfold State.writeCmd; split
      · exact State.issue_inbox ..
      · rfl
    · split
      · unfold State.writeWindow
        split
        · rfl
        · split
          · rfl
          · exact State.setWindowReg_inbox ..
      · rfl

/-- A step takes exactly its own move off the inbox. -/
theorem step_inbox {s t : State} (h : step s = .next t) : t.inbox = s.inbox.tail := by
  rcases step_cases s with ⟨_, _, _, _, e⟩ | ⟨_, _, _, e⟩ | ⟨_, _, _, _, _, e⟩ | ⟨_, _, _, e⟩
    | ⟨_, _, _, e⟩ | ⟨_, _, _, _, _, e⟩ | ⟨_, _, e⟩ <;>
    (rw [e] at h; cases h; simp [State.advance])

theorem run_zero (s : State) : Host.Core.run core 0 s = .next s := rfl

/-- A run whose first step answers a next state goes on from there. -/
theorem run_succ {s t : State} (n : Nat) (h : step s = .next t) :
    Host.Core.run core (n + 1) s = Host.Core.run core n t := by
  have h' : core.step s = .next t := h
  simp only [Host.Core.run, h']

/-! ### Bus writes -/

/-- The value of the inbox does not decide what the registers hold. -/
@[simp] theorem State.advance_x (s : State) (i : FReg) : s.advance.x i = s.x i := rfl
@[simp] theorem State.advance_pt (s : State) (i : PReg) : s.advance.pt i = s.pt i := rfl
@[simp] theorem State.advance_busy (s : State) : s.advance.busy = s.busy := rfl
@[simp] theorem State.advance_cfgReg (s : State) (c : CfgReg) : s.advance.cfgReg c = s.cfgReg c := by
  cases c <;> rfl
@[simp] theorem State.advance_windowReg (s : State) (r : WindowReg) :
    s.advance.windowReg r = s.windowReg r := by
  cases r <;> simp [State.windowReg]

/-- Everything a bus write out of CMD can do. -/
theorem State.busWrite_cases (s : State) (off : Offset) (v : Word) (h : wordOffset off ≠ 0x00C) :
    (s.rst = true ∧ s.busWrite off v = s)
    ∨ (s.rst = false ∧ wordOffset off = 0x004 ∧ s.busWrite off v = s.writeCtrl v)
    ∨ (s.rst = false ∧ wordOffset off = 0x008 ∧ s.busWrite off v = s.writeStatus v)
    ∨ (∃ r k, s.rst = false ∧ wordOffset off = r.base + 4 * k ∧ k < 16
        ∧ s.busWrite off v = s.writeWindow r k v)
    ∨ (s.rst = false ∧ wordOffset off ≠ 0x004 ∧ wordOffset off ≠ 0x008
        ∧ windowAt (wordOffset off) = none ∧ s.busWrite off v = s) := by
  unfold State.busWrite
  rcases hr : s.rst with _ | _
  · simp only [Bool.false_eq_true, if_false]
    split
    · exact .inr (.inl ⟨trivial, by assumption, rfl⟩)
    · exact .inr (.inr (.inl ⟨trivial, by assumption, rfl⟩))
    · exact absurd (by assumption) h
    · rename_i h4 h8 _
      rcases hw : windowAt (wordOffset off) with _ | ⟨r, k⟩
      · exact .inr (.inr (.inr (.inr ⟨trivial, h4, h8, rfl, rfl⟩)))
      · obtain ⟨hb, hlt, hk⟩ := windowAt_eq_some hw
        refine .inr (.inr (.inr (.inl ⟨r, k, trivial, ?_, by omega, rfl⟩)))
        have h4 : wordOffset off % 4 = 0 := by
          have : ∀ o : Offset, (o &&& 0xFFC#12).toNat % 4 = 0 := by decide +kernel
          exact this off
        have hb4 : r.base % 4 = 0 := by
          rcases r with c | i
          · cases c <;> rfl
          · simp only [WindowReg.base]; omega
        omega
  · exact .inl ⟨rfl, by simp⟩

/-! ### Accesses that reach a window -/

/-- Every window lies above the control registers. -/
theorem WindowReg.base_ge (r : WindowReg) : 0x100 ≤ r.base := by
  rcases r with c | i
  · cases c <;> decide
  · simp only [WindowReg.base]; omega

/-- What a read of word k of a window finds, live or not. -/
theorem State.peek_of_window (s : State) {off : Offset} {r : WindowReg} {k : Nat} (hk : k < 16)
    (ho : wordOffset off = r.base + 4 * k) :
    s.peek off = if s.width.words ≤ k then some 0
      else if s.busy then none else some (wordOf (s.windowReg r) k) := by
  have hb := r.base_ge
  have hw : windowAt (wordOffset off) = some (r, k) := by rw [ho]; exact windowAt_base r hk
  unfold State.peek
  split <;> first | omega | simp [hw]

/-- A write of word k of a window, out of reset, is `writeWindow`. -/
theorem State.busWrite_of_window (s : State) {off : Offset} {r : WindowReg} {k : Nat} (v : Word)
    (hr : s.rst = false) (hk : k < 16) (ho : wordOffset off = r.base + 4 * k) :
    s.busWrite off v = s.writeWindow r k v := by
  have hb := r.base_ge
  have hw : windowAt (wordOffset off) = some (r, k) := by rw [ho]; exact windowAt_base r hk
  unfold State.busWrite
  simp only [hr, Bool.false_eq_true, if_false]
  split <;> first | omega | simp [hw]

end Sys2Proof.Machine
end

