-- ==== Sys2Proof/Tests/Slice0.lean ====
section
/-! SUPPORT. The model's own tests.  Expected values are those of spec/95_test_vectors.md (the row is
named at each test) and of spec/30_encoding.md.  Section 1 is the smoke test of WellFormed, section 2
decodes written-out words, sections 3 to 5 run one step each, section 6 has the witnesses of the
obligations' hypotheses. -/

set_option Elab.async false

open Sys2Proof Sys2Proof.Machine

namespace Sys2Proof.Tests

/-! ### 1. WellFormed refuses an ill-formed term for each check -/

/-- `FADD.P R3, R1, R2`, whose fields pass every check. -/
def goodFields : Fields := ⟨0x01, 0, 0, 3, 1, 2, 0⟩

theorem test_fields_good : goodFields.wellFormed = true := by decide
theorem test_fields_unassigned_opcode : { goodFields with opc := 0x09 }.wellFormed = false := by
  decide
theorem test_fields_rsv1 : { goodFields with rsv1 := 1 }.wellFormed = false := by decide
theorem test_fields_rsv0 : { goodFields with rsv0 := 1 }.wellFormed = false := by decide
theorem test_fields_ms_forbidden :
    (⟨0x08, 1, 0, 0, 15, 0, 0⟩ : Fields).wellFormed = false
      ∧ (⟨0x10, 1, 0, 2, 0, 1, 0⟩ : Fields).wellFormed = false := by decide
theorem test_fields_unused_a : (⟨0x12, 0, 0, 0, 1, 0, 0⟩ : Fields).wellFormed = false := by decide
theorem test_fields_unused_b : (⟨0x04, 0, 0, 2, 1, 1, 0⟩ : Fields).wellFormed = false := by decide
theorem test_fields_point_d : (⟨0x10, 0, 0, 8, 0, 1, 0⟩ : Fields).wellFormed = false := by decide
theorem test_fields_point_a : (⟨0x16, 0, 0, 1, 8, 0, 0⟩ : Fields).wellFormed = false := by decide
theorem test_fields_point_b : (⟨0x10, 0, 0, 2, 0, 8, 0⟩ : Fields).wellFormed = false := by decide
theorem test_fields_field_index_8_is_legal :
    (⟨0x16, 0, 0, 8, 1, 0, 0⟩ : Fields).wellFormed = true := by decide

theorem test_line_good : (⟨.FMUL, some .q, [.r 5, .r 4, .r 3]⟩ : AsmLine).wellFormed = true := by
  decide
theorem test_line_suffix :
    (⟨.PADD, some .q, [.p 2, .p 0, .p 1]⟩ : AsmLine).wellFormed = false
      ∧ (⟨.PADD, some .p, [.p 2, .p 0, .p 1]⟩ : AsmLine).wellFormed = false
      ∧ (⟨.FMOV, some .q, [.r 0, .r 15]⟩ : AsmLine).wellFormed = false := by decide
theorem test_line_range :
    (⟨.FADD, none, [.r 16, .r 0, .r 0]⟩ : AsmLine).wellFormed = false
      ∧ (⟨.PLDG, none, [.p 8]⟩ : AsmLine).wellFormed = false := by decide
theorem test_line_kind : (⟨.PMUL, none, [.p 0, .r 0, .r 0]⟩ : AsmLine).wellFormed = false := by
  decide
theorem test_line_operand_count : (⟨.FADD, none, [.r 0, .r 1]⟩ : AsmLine).wellFormed = false := by
  decide

/-! ### 2. Decoding, from the words of 95_test_vectors.md section 8 and of its programs -/

theorem test_decode_fadd : decode 0x01831200 = some (.fadd .q 3 1 2) := by decide
/-- OPC 0x02, MS 0, D 9, A 4, B 14: 0000_0010 0 000 1001 0100 1110 0000_0000. -/
theorem test_decode_fsub : decode 0b00000010000010010100111000000000 = some (.fsub .p 9 4 14) := by
  decide
theorem test_decode_fmul : decode 0x03885400 = some (.fmul .q 8 5 4) := by decide
/-- OPC 0x04, MS 1, D 2, A 11: 0000_0100 1 000 0010 1011 0000 0000_0000. -/
theorem test_decode_fsqr : decode 0b00000100100000101011000000000000 = some (.fsqr .q 2 11) := by
  decide
theorem test_decode_fneg : decode 0x058CC000 = some (.fneg .q 12 12) := by decide
theorem test_decode_fred : decode 0x06843000 = some (.fred .q 4 3) := by decide
theorem test_decode_finv : decode 0x078A4000 = some (.finv .q 10 4) := by decide
theorem test_decode_fmov : decode 0x0800F000 = some (.fmov 0 15) := by decide
theorem test_decode_padd : decode 0x10053400 = some (.padd 5 3 4) := by decide
theorem test_decode_pmul : decode 0x11070F00 = some (.pmul 7 0 15) := by decide
theorem test_decode_pldg : decode 0x12010000 = some (.pldg 1) := by decide
theorem test_decode_pseti : decode 0x13010000 = some (.pseti 1) := by decide
theorem test_decode_pmov : decode 0x14041000 = some (.pmov 4 1) := by decide
theorem test_decode_pset : decode 0x1507EF00 = some (.pset 7 14 15) := by decide
theorem test_decode_pgetx : decode 0x16081000 = some (.pgetx 8 1) := by decide
theorem test_decode_pgety : decode 0x17021000 = some (.pgety 2 1) := by decide
theorem test_decode_illegal :
    [0x00000000, 0x01131200, 0x04021100, 0x10801000, 0xFF000000, 0x09000000, 0x16018000,
      0x110F0F00, 0x15080000, 0x12001000, 0x13800000].all
        (fun w => decode (BitVec.ofNat 32 w) == none) = true := by decide
theorem test_decode_table_word : decodeTableWord 32 0x01031200 = some (.fadd .p 3 1 2) := by decide

/-! ### 3. The toy curve, and the helpers of the step tests -/

/-- The toy curve of 95_test_vectors.md section 2, registers otherwise at reset. -/
def toy : State :=
  { State.reset with
    cfg := ⟨toVal 23, toVal 1, toVal 1, toVal 28, toVal 7, toVal 5, toVal 4⟩ }

/-- The same with an operand width of 256. -/
def toy256 : State := { toy with width := .w256 }

/-- `BIG` of the spec's vectors: 2^512 - 1. -/
def big : Val := BitVec.allOnes 512

/-- A finite point. -/
def at' (x y : Nat) : Point := ⟨toVal x, toVal y, false⟩

/-- The host's move is a CMD write of the command's word. -/
def issuing (c : Instr) (s : State) : State := { s with inbox := [.write 0x00C (encode c)] }

/-- The command has been accepted and the sequencer moves next. -/
def flying (c : Instr) (s : State) : State :=
  { s with cmdlog := encode c, inflight := some (s.record c), inbox := [.sequencer] }

/-- One host move. -/
def host (e : Event) (s : State) : State := { s with inbox := [e] }

/-- The step answers a next state of which `f` holds. -/
def stepGives (s : State) (f : State → Bool) : Bool :=
  match step s with
  | .next t => f t
  | .fault _ => false
  | .refused _ => false

/-- x[d], and Z, ID, NI, after a completion. -/
def fieldIs (d : FReg) (n : Nat) (z id ni : Bool) (t : State) : Bool :=
  (t.x d).toNat == n && t.status.z == z && t.status.id == id && t.status.ni == ni
    && t.status.done && !t.busy && t.inbox == []

/-- pt[d], and the flags a point gives, after a completion. -/
def pointIs (d : PReg) (u : Point) (t : State) : Bool :=
  (t.pt d).x.toNat == u.x.toNat && (t.pt d).y.toNat == u.y.toNat && (t.pt d).inf == u.inf
    && t.status.z == false && t.status.id == u.inf && t.status.ni == false
    && t.status.done && !t.busy

/-! ### 4. One completion per command -/

/-- FADD-2 (a sum past 2^W) and FADD-4 (`FADD.P R1, R1, R1`). -/
theorem test_fadd_wide :
    stepGives (flying (.fadd .p 3 1 2) ((toy.setX 1 big).setX 2 (toVal 1)))
      (fieldIs 3 18 false false false) = true := by decide +kernel
theorem test_fadd_same_register :
    stepGives (flying (.fadd .p 1 1 1) (toy.setX 1 (toVal 20))) (fieldIs 1 17 false false false)
      = true := by decide +kernel
/-- FSUB-2 and FSUBQ-1. -/
theorem test_fsub_from_zero :
    stepGives (flying (.fsub .p 3 1 2) (toy.setX 2 big)) (fieldIs 3 6 false false false)
      = true := by decide +kernel
theorem test_fsub_q :
    stepGives (flying (.fsub .q 3 1 2) ((toy.setX 1 (toVal 3)).setX 2 (toVal 5)))
      (fieldIs 3 5 false false false) = true := by decide +kernel
/-- FMUL-2 (the exact 1024-bit product) and FMULQ-2. -/
theorem test_fmul_wide :
    stepGives (flying (.fmul .p 3 1 1) (toy.setX 1 big)) (fieldIs 3 13 false false false)
      = true := by decide +kernel
theorem test_fmul_q :
    stepGives (flying (.fmul .q 3 1 1) (toy.setX 1 big)) (fieldIs 3 2 false false false)
      = true := by decide +kernel
/-- FSQR-3 and FSQRQ-1. -/
theorem test_fsqr_unreduced :
    stepGives (flying (.fsqr .p 3 1) (toy.setX 1 (toVal 30))) (fieldIs 3 3 false false false)
      = true := by decide +kernel
theorem test_fsqr_q :
    stepGives (flying (.fsqr .q 3 1) (toy.setX 1 (toVal 5))) (fieldIs 3 4 false false false)
      = true := by decide +kernel
/-- FNEG-2 (0, and not M) and FNEGQ-2. -/
theorem test_fneg_zero :
    stepGives (flying (.fneg .p 3 1) toy) (fieldIs 3 0 true false false) = true := by
  decide +kernel
theorem test_fneg_q :
    stepGives (flying (.fneg .q 3 1) (toy.setX 1 (toVal 30))) (fieldIs 3 5 false false false)
      = true := by decide +kernel
/-- FRED-3 (x[a] = M) and FRED-4. -/
theorem test_fred_modulus :
    stepGives (flying (.fred .p 3 1) (toy.setX 1 (toVal 23))) (fieldIs 3 0 true false false)
      = true := by decide +kernel
theorem test_fred_q :
    stepGives (flying (.fred .q 4 3) (toy.setX 3 (toVal 4660))) (fieldIs 4 5 false false false)
      = true := by decide +kernel
/-- FINV-8 and FINVC-4 (M = 15, gcd 3: the inverse does not exist). -/
theorem test_finv_wide :
    stepGives (flying (.finv .p 3 1) (toy.setX 1 big)) (fieldIs 3 19 false false false)
      = true := by decide +kernel
theorem test_finv_none :
    stepGives (flying (.finv .p 3 1) ((toy.setCfgReg .P (toVal 15)).setX 1 (toVal 6)))
      (fieldIs 3 0 true false true) = true := by decide +kernel
/-- FMOV-1 and FMOV-2, with no modulus written (ERR-5). -/
theorem test_fmov_raw :
    stepGives (flying (.fmov 0 15) (State.reset.setX 15 big)) (fieldIs 0 (2 ^ 512 - 1) false false false)
      = true := by decide +kernel
theorem test_fmov_zero :
    stepGives (flying (.fmov 0 15) State.reset) (fieldIs 0 0 true false false) = true := by
  decide +kernel
/-- PADD-4 and PADD-9 (distinct as stored, equal modulo p). -/
theorem test_padd_chord :
    stepGives (flying (.padd 2 0 1) ((toy.setPt 0 (at' 5 4)).setPt 1 (at' 17 20)))
      (pointIs 2 (at' 13 16)) = true := by decide +kernel
theorem test_padd_congruent :
    stepGives (flying (.padd 2 0 1) ((toy.setPt 0 (at' 5 4)).setPt 1 (at' 28 4)))
      (pointIs 2 .identity) = true := by decide +kernel
/-- PMUL-7 and PMUL-15 (a point off the curve). -/
theorem test_pmul_thirteen :
    stepGives (flying (.pmul 1 0 0) ((toy.setPt 0 (at' 5 4)).setX 0 (toVal 13)))
      (pointIs 1 (at' 5 19)) = true := by decide +kernel
theorem test_pmul_off_curve :
    stepGives (flying (.pmul 1 0 0) ((toy.setPt 0 (at' 1 1)).setX 0 (toVal 3)))
      (pointIs 1 (at' 13 1)) = true := by decide +kernel
/-- PMV-1 and PMV-2 ((0, 0) is not the identity). -/
theorem test_pldg : stepGives (flying (.pldg 0) toy) (pointIs 0 (at' 5 4)) = true := by
  decide +kernel
theorem test_pldg_after_reset :
    stepGives (flying (.pldg 1) State.reset) (pointIs 1 (at' 0 0)) = true := by decide +kernel
/-- PMV-3. -/
theorem test_pseti :
    stepGives (flying (.pseti 1) (toy.setPt 1 (at' 13 16))) (pointIs 1 .identity) = true := by
  decide +kernel
/-- PMV-4. -/
theorem test_pmov :
    stepGives (flying (.pmov 4 1) (toy.setPt 1 (at' 13 16))) (pointIs 4 (at' 13 16)) = true := by
  decide +kernel
/-- PMV-8: raw coordinates. -/
theorem test_pset :
    stepGives (flying (.pset 0 1 2) ((toy.setX 1 (toVal 28)).setX 2 (toVal 27)))
      (pointIs 0 (at' 28 27)) = true := by decide +kernel
/-- PMV-9 and PMV-11. -/
theorem test_pgetx :
    stepGives (flying (.pgetx 1 1) (toy.setPt 1 (at' 13 16))) (fieldIs 1 13 false false false)
      = true := by decide +kernel
theorem test_pgetx_identity :
    stepGives (flying (.pgetx 1 1) (toy.setX 1 big)) (fieldIs 1 0 true true false) = true := by
  decide +kernel
/-- PMV-10 and PMV-13 (a zero coordinate of a finite point). -/
theorem test_pgety :
    stepGives (flying (.pgety 2 1) (toy.setPt 1 (at' 13 16))) (fieldIs 2 16 false false false)
      = true := by decide +kernel
theorem test_pgety_zero :
    stepGives (flying (.pgety 2 1) (toy.setPt 1 (at' 4 0))) (fieldIs 2 0 true false false)
      = true := by decide +kernel
/-- F256-3, on an instance of width 256. -/
theorem test_fmul_256 :
    stepGives (flying (.fmul .p 3 1 1) (toy256.setX 1 (toVal (2 ^ 256 - 1))))
      (fieldIs 3 3 false false false) = true := by decide +kernel

/-! ### 5. One host move -/

/-- ERR-1: no modulus after reset. -/
theorem test_issue_modulus :
    stepGives (issuing (.fadd .p 3 1 2) State.reset)
      (fun t => t.statusWord == 0x022 && t.cmdlog == 0x01031200) = true := by decide +kernel
/-- ERR-14: ILLEGAL comes before MODULUS. -/
theorem test_issue_illegal :
    stepGives (host (.write 0x00C 0x10801000) State.reset)
      (fun t => t.statusWord == 0x012 && t.cmdlog == 0x10801000) = true := by decide +kernel
theorem test_issue_accepted :
    stepGives (issuing (.fadd .p 3 1 2) toy)
      (fun t => t.statusWord == 0x001 && t.inflight == some (toy.record (.fadd .p 3 1 2)))
      = true := by decide +kernel
/-- The word `withFetchWord` places is the one the next step runs. -/
theorem test_fetch_word :
    stepGives (State.reset.withFetchWord 32 0x12010000)
      (fun t => t.busy && t.cmdlog == 0x12010000) = true := by decide +kernel
/-- BUS-15. -/
theorem test_command_while_busy :
    stepGives { flying (.fadd .p 3 1 2) toy with inbox := [.write 0x00C 0] }
      (fun t => t.statusWord == 0x801 && t.cmdlog == 0x01031200) = true := by decide +kernel
/-- BUS-1, BUS-2. -/
theorem test_read_id :
    stepGives (host (.read 0x000) toy) (fun t => t.rdata == 0x45430200) = true
      ∧ stepGives (host (.read 0x000) toy256) (fun t => t.rdata == 0x45430100) = true := by
  decide +kernel
/-- BUS-5. -/
theorem test_read_top_word :
    stepGives (host (.read 0x47C) (toy.setX 1 (big <<< 480))) (fun t => t.rdata == 0xFFFFFFFF)
      = true := by decide +kernel
/-- BUS-7. -/
theorem test_write_window_low_bits :
    stepGives (host (.write 0x403 7) toy) (fun t => (t.x 0).toNat == 7) = true := by
  decide +kernel
/-- BUS-6: word 8 of a 256-bit register does not exist, busy or not. -/
theorem test_write_beyond_width :
    stepGives { flying (.pseti 0) toy256 with inbox := [.write 0x460 5] }
      (fun t => (t.x 1).toNat == 0 && t.status.werr == false) = true := by decide +kernel
/-- BUS-12: STATUS = 0x1902. -/
theorem test_write_status :
    stepGives (host (.write 0x008 0xFFFFFFFF)
        { toy with status := ⟨true, .ok, true, false, false, true, true⟩ })
      (fun t => t.statusWord == 0x100) = true := by decide +kernel
/-- BUS-13. -/
theorem test_write_window_busy :
    stepGives { flying (.pseti 0) toy with inbox := [.write 0x420 9] }
      (fun t => (t.x 0).toNat == 0 && t.status.werr) = true := by decide +kernel
/-- BUS-16. -/
theorem test_write_ctrl :
    stepGives (host (.write 0x004 2) { toy with status := { toy.status with done := true } })
      (fun t => t.ie && t.irq) = true := by decide +kernel
/-- BUS-18. -/
theorem test_soft_reset :
    stepGives { flying (.pseti 0) toy with inbox := [.write 0x004 3] }
      (fun t => decide (t = State.reset)) = true := by decide +kernel

/-! ### 6. Witnesses: states and operands that meet the hypotheses of each obligation -/

/-- FADD in flight, the sequencer to move. -/
def busyToy : State := flying (.fadd .p 3 1 2) toy

/-- A command in flight, the host's move being `e`. -/
def busyHost (e : Event) : State := { busyToy with inbox := [e] }

/-- CORE held in reset, the host's move being `e`. -/
def heldHost (e : Event) : State := { State.reset with rst := true, inbox := [e] }

/-- Moduli at the least value that passes the MODULUS check. -/
def two : State := { toy with cfg := { toy.cfg with p := toVal 2, q := toVal 2 } }

/-- Moduli at the greatest value that fails it. -/
def one : State := { toy with cfg := { toy.cfg with p := toVal 1, q := toVal 1 } }

theorem inFlight_flying (c : Instr) (s : State) :
    InFlight (flying c s) c (s.sample c) ((s.sample c).startWork c) := ⟨rfl, rfl⟩

theorem two_le_two (ms : ModSel) : 2 ≤ (two.sel ms).toNat := by cases ms <;> decide +kernel

theorem one_lt_two (ms : ModSel) : (one.sel ms).toNat < 2 := by cases ms <;> decide +kernel

theorem writesWord_host (s : State) (off : Offset) (v : Word) (h : s.rst = false) :
    WritesWord (host (.write off v) s) (wordOffset off) v := ⟨h, off, [], rfl, rfl⟩

theorem busyToy_inv : busyToy.Inv where
  fieldFits := by decide +kernel
  cfgFits c := by cases c <;> decide +kernel
  pointOk i :=
    ⟨by revert i; decide +kernel, by revert i; decide +kernel, by revert i; decide +kernel⟩
  busyQuiet _ := ⟨rfl, rfl⟩
  flightOk r h := by
    have h : toy.record (.fadd .p 3 1 2) = r := Option.some.inj h
    subst h
    exact ⟨rfl, fun ms h => by cases h; decide +kernel, rfl⟩
  illegalLogged h := nomatch h
  modulusLogged h := nomatch h
  held h := nomatch h

theorem busyToy256_inv : (flying (.pmul 1 0 0) toy256).Inv where
  fieldFits := by decide +kernel
  cfgFits c := by cases c <;> decide +kernel
  pointOk i :=
    ⟨by revert i; decide +kernel, by revert i; decide +kernel, by revert i; decide +kernel⟩
  busyQuiet _ := ⟨rfl, rfl⟩
  flightOk r h := by
    have h : toy256.record (.pmul 1 0 0) = r := Option.some.inj h
    subst h
    exact ⟨rfl, fun ms h => by cases h; decide +kernel, rfl⟩
  illegalLogged h := nomatch h
  modulusLogged h := nomatch h
  held h := nomatch h

theorem witness_StepRunsTheDecodedCommand :
    (WritesWord (host (.write 0x00F 0x01031200) toy) 0x00C 0x01031200
      ∧ decode 0x01031200 = some (.fadd .p 3 1 2))
    ∧ (busyToy.turn = .sequencer ∧ busyToy.rst = false ∧ busyToy.inflight ≠ none)
    ∧ decodeTableWord 32 0x17021000 = some (.pgety 2 1) :=
  ⟨⟨writesWord_host _ 0x00F _ rfl, by decide⟩, ⟨rfl, rfl, nofun⟩, by decide⟩

theorem witness_EncodeOfDecodeIsTheWord : decode 0x17021000 = some (.pgety 2 1) := by decide

/-- One word for each reason a word is ILLEGAL, each wrong in that field alone. -/
theorem witness_IllegalExactlyWhenAFieldIsWrong :
    Op.ofOpc (Fields.ofWord 0x18000000).opc = none
    ∧ (Fields.ofWord 0x01100000).rsv1 ≠ 0 ∧ (Fields.ofWord 0x01000080).rsv0 ≠ 0
    ∧ (Op.FMOV.roles.msFree = false ∧ (Fields.ofWord 0x08800000).ms ≠ 0)
    ∧ (Op.PADD.roles.d = .point ∧ (Fields.ofWord 0x10080000).d.getLsbD 3 = true)
    ∧ (Op.PGETX.roles.a = .point ∧ (Fields.ofWord 0x16018000).a.getLsbD 3 = true)
    ∧ (Op.PADD.roles.b = .point ∧ (Fields.ofWord 0x10000800).b.getLsbD 3 = true)
    ∧ (Op.PLDG.roles.a = .unused ∧ (Fields.ofWord 0x12001000).a ≠ 0)
    ∧ (Op.FSQR.roles.b = .unused ∧ (Fields.ofWord 0x04000100).b ≠ 0) := by decide

theorem witness_AssemblerTakesCommandsAndRefusesBadLines :
    Op.FINV.roles.msFree = true ∧ Op.FMOV.roles.msFree = false
    ∧ AsmOperand.p 8 ∈ (⟨.PLDG, none, [.p 8]⟩ : AsmLine).operands
    ∧ AsmOperand.r 16 ∈ (⟨.FMOV, none, [.r 0, .r 16]⟩ : AsmLine).operands
    ∧ assemble ⟨.PMUL, none, [.p 7, .p 0, .r 15]⟩ = some (.pmul 7 0 15) := by decide

theorem witness_PseudoInstructions :
    (InFlight (flying (.fclr .q 3) two) (.fclr .q 3) (two.sample (.fclr .q 3)) {}
      ∧ (two.sample (.fclr .q 3)).xa = (two.sample (.fclr .q 3)).xb
      ∧ 2 ≤ (two.sample (.fclr .q 3)).modulus.toNat)
    ∧ (InFlight (flying (.feq .p 3 1 2) two) (.feq .p 3 1 2) (two.sample (.feq .p 3 1 2)) {}
      ∧ 2 ≤ (two.sample (.feq .p 3 1 2)).modulus.toNat)
    ∧ (HostMayIssue one ∧ (one.sel .q).toNat < 2) :=
  ⟨⟨inFlight_flying _ _, rfl, two_le_two .q⟩, ⟨inFlight_flying _ _, two_le_two .p⟩,
    ⟨rfl, rfl⟩, one_lt_two .q⟩

theorem witness_AcceptedCommandIsPutInFlight :
    HostMayIssue two ∧ ∀ ms, (Instr.padd 2 0 1).modSel = some ms → 2 ≤ (two.sel ms).toNat :=
  ⟨⟨rfl, rfl⟩, fun ms _ => two_le_two ms⟩

theorem witness_MissingModulusIsAPreciseError :
    HostMayIssue one ∧ (Instr.pmul 1 0 0).modSel = some .p ∧ (one.sel .p).toNat < 2 :=
  ⟨⟨rfl, rfl⟩, rfl, one_lt_two .p⟩

theorem witness_IllegalWordIsAPreciseError :
    AcceptsWord (host (.write 0x00C 0x08800000) toy) 0x08800000 ∧ decode 0x08800000 = none :=
  ⟨⟨rfl, writesWord_host _ 0x00C _ rfl⟩, by decide⟩

theorem witness_CmdWriteIsIssueCommand :
    (WritesWord (busyHost (.write 0x00C 0)) 0x00C 0 ∧ (busyHost (.write 0x00C 0)).busy = true)
    ∧ (WritesWord (host (.write 0x00C 0) toy) 0x00C 0 ∧ toy.busy = false ∧ decode 0 = none)
    ∧ (WritesWord (host (.write 0x00C 0x10020100) one) 0x00C 0x10020100
      ∧ decode 0x10020100 = some (.padd 2 0 1) ∧ (Instr.padd 2 0 1).modSel = some .p
      ∧ (one.sel .p).toNat < 2)
    ∧ (WritesWord (host (.write 0x00C 0x10020100) two) 0x00C 0x10020100
      ∧ ∀ ms, (Instr.padd 2 0 1).modSel = some ms → 2 ≤ (two.sel ms).toNat) :=
  ⟨⟨writesWord_host busyToy 0x00C 0 rfl, rfl⟩,
    ⟨writesWord_host toy 0x00C 0 rfl, rfl, by decide⟩,
    ⟨writesWord_host one 0x00C _ rfl, by decide, rfl, one_lt_two .p⟩,
    writesWord_host two 0x00C _ rfl, fun ms _ => two_le_two ms⟩

theorem witness_ErrorsArePrecise :
    (AcceptsWord (host (.write 0x00C 0) toy) 0 ∧ decode 0 = none)
    ∧ (AcceptsWord (host (.write 0x00C 0x10020100) one) 0x10020100
      ∧ decode 0x10020100 = some (.padd 2 0 1) ∧ (Instr.padd 2 0 1).modSel = some .p
      ∧ (one.sel .p).toNat < 2)
    ∧ one.ie = false ∧ { one with ie := true }.ie = true :=
  ⟨⟨⟨rfl, writesWord_host toy 0x00C 0 rfl⟩, by decide⟩,
    ⟨⟨rfl, writesWord_host one 0x00C _ rfl⟩, by decide, rfl, one_lt_two .p⟩, rfl, rfl⟩

theorem witness_CommandWhileBusyIsDropped :
    (busyHost (.write 0x00C 0)).turn = .host ∧ (busyHost (.write 0x00C 0)).busy = true
      ∧ DropsWord (busyHost (.write 0x00C 0)) :=
  ⟨rfl, rfl, rfl, 0, writesWord_host busyToy 0x00C 0 rfl⟩

/-- For every command, a state with it in flight, its modulus at the boundary 2: the hypotheses of
every result obligation. -/
theorem witness_results (c : Instr) :
    InFlight (flying c two) c (two.sample c) ((two.sample c).startWork c)
      ∧ (c.modSel ≠ none → 2 ≤ (two.sample c).modulus.toNat) := by
  refine ⟨inFlight_flying c two, fun h => ?_⟩
  cases c with
  | fadd ms _ _ _ => exact two_le_two ms
  | fsub ms _ _ _ => exact two_le_two ms
  | fmul ms _ _ _ => exact two_le_two ms
  | fsqr ms _ _ => exact two_le_two ms
  | fneg ms _ _ => exact two_le_two ms
  | fred ms _ _ => exact two_le_two ms
  | finv ms _ _ => exact two_le_two ms
  | padd _ _ _ => exact two_le_two .p
  | pmul _ _ _ => exact two_le_two .p
  | fmov _ _ => exact absurd rfl h
  | pldg _ => exact absurd rfl h
  | pseti _ => exact absurd rfl h
  | pmov _ _ => exact absurd rfl h
  | pset _ _ _ => exact absurd rfl h
  | pgetx _ _ => exact absurd rfl h
  | pgety _ _ => exact absurd rfl h

theorem witness_FieldBinaryResults :
    InFlight (flying (.fadd .p 3 1 2) two) (.fadd .p 3 1 2) (two.sample (.fadd .p 3 1 2)) {}
    ∧ InFlight (flying (.fsub .p 3 1 2) two) (.fsub .p 3 1 2) (two.sample (.fsub .p 3 1 2)) {}
    ∧ InFlight (flying (.fmul .q 3 1 2) two) (.fmul .q 3 1 2) (two.sample (.fmul .q 3 1 2)) {}
    ∧ 2 ≤ (two.sample (.fmul .q 3 1 2)).modulus.toNat :=
  ⟨inFlight_flying _ _, inFlight_flying _ _, inFlight_flying _ _, two_le_two .q⟩

theorem witness_FieldUnaryResults :
    InFlight (flying (.fsqr .p 3 1) two) (.fsqr .p 3 1) (two.sample (.fsqr .p 3 1)) {}
    ∧ InFlight (flying (.fneg .p 3 1) two) (.fneg .p 3 1) (two.sample (.fneg .p 3 1)) {}
    ∧ InFlight (flying (.fred .q 3 1) two) (.fred .q 3 1) (two.sample (.fred .q 3 1)) {}
    ∧ 2 ≤ (two.sample (.fred .q 3 1)).modulus.toNat :=
  ⟨inFlight_flying _ _, inFlight_flying _ _, inFlight_flying _ _, two_le_two .q⟩

/-- An operand with an inverse (5·14 = 70 ≡ 1 mod 23) and one without (0). -/
theorem witness_InverseResults :
    InFlight (flying (.finv .p 3 1) toy) (.finv .p 3 1) (toy.sample (.finv .p 3 1)) {}
    ∧ 2 ≤ (toy.sample (.finv .p 3 1)).modulus.toNat
    ∧ Nat.gcd (toy.sample (.finv .p 3 1)).xa.toNat (toy.sample (.finv .p 3 1)).modulus.toNat ≠ 1
    ∧ (((toy.setX 1 (toVal 5)).sample (.finv .p 3 1)).xa.toNat * 14)
        % ((toy.setX 1 (toVal 5)).sample (.finv .p 3 1)).modulus.toNat = 1 :=
  ⟨inFlight_flying _ _, by decide +kernel, by decide +kernel, by decide +kernel⟩

theorem witness_CopyResult :
    InFlight (flying (.fmov 0 15) toy) (.fmov 0 15) (toy.sample (.fmov 0 15)) {} :=
  inFlight_flying _ _

theorem witness_PointAdditionResult :
    InFlight (flying (.padd 2 0 1) toy) (.padd 2 0 1) (toy.sample (.padd 2 0 1)) {} :=
  inFlight_flying _ _

theorem witness_ScalarMultiplicationResult :
    InFlight (flying (.pmul 1 0 0) toy) (.pmul 1 0 0) (toy.sample (.pmul 1 0 0))
      ⟨Point.identity, toy.pt 0, toy.x 0⟩ ∧ Point.identity = ⟨0, 0, true⟩ :=
  ⟨inFlight_flying _ _, by decide +kernel⟩

theorem witness_PointMoveResults :
    InFlight (flying (.pldg 0) toy) (.pldg 0) (toy.sample (.pldg 0)) {}
    ∧ InFlight (flying (.pseti 7) toy) (.pseti 7) (toy.sample (.pseti 7)) {}
    ∧ InFlight (flying (.pmov 4 1) toy) (.pmov 4 1) (toy.sample (.pmov 4 1)) {}
    ∧ InFlight (flying (.pset 7 14 15) toy) (.pset 7 14 15) (toy.sample (.pset 7 14 15)) {} :=
  ⟨inFlight_flying _ _, inFlight_flying _ _, inFlight_flying _ _, inFlight_flying _ _⟩

theorem witness_CoordinateResults :
    InFlight (flying (.pgetx 1 1) toy) (.pgetx 1 1) (toy.sample (.pgetx 1 1)) {}
    ∧ InFlight (flying (.pgety 2 1) toy) (.pgety 2 1) (toy.sample (.pgety 2 1)) {} :=
  ⟨inFlight_flying _ _, inFlight_flying _ _⟩

theorem witness_UnreducedOperandsGiveTheReducedResult :
    InFlight (flying (.fneg .q 3 1) two) (.fneg .q 3 1) (two.sample (.fneg .q 3 1)) {}
    ∧ 2 ≤ (two.sample (.fneg .q 3 1)).modulus.toNat :=
  ⟨inFlight_flying _ _, two_le_two .q⟩

/-- The least modulus, a negative value with an inverse, and a value without one. -/
theorem witness_EuclidComputesTheModularInverse :
    2 ≤ 2 ∧ Nat.gcd ((-1 : Int) % (2 : Nat)).toNat 2 = 1
      ∧ Nat.gcd ((0 : Int) % (2 : Nat)).toNat 2 ≠ 1
      ∧ (1 ≤ 1 ∧ 1 ≤ 2 - 1 ∧ ((-1 : Int) * 1) % (2 : Nat) = 1) ∧ Nat.Prime 2 :=
  ⟨by decide, by decide, by decide, by decide, Nat.prime_two⟩

/-- Points for each case of the group law: an identity operand on either side, a chord with and
without an inverse, and a tangent with and without one. -/
theorem witness_GroupLaw :
    2 ≤ (toVal 23).toNat ∧ Point.identity.inf = true ∧ (at' 5 4).inf = false
    ∧ ((12 : Int) = ((at' 17 20).x.toNat : Int) - (at' 5 4).x.toNat
      ∧ ((12 : Int) * (2 : Nat)) % (toVal 23).toNat = 1)
    ∧ ((23 : Int) = ((at' 28 4).x.toNat : Int) - (at' 5 4).x.toNat
      ∧ Nat.gcd ((23 : Int) % (toVal 23).toNat).toNat (toVal 23).toNat ≠ 1)
    ∧ ((8 : Int) = 2 * ((at' 5 4).y.toNat : Int)
      ∧ ((8 : Int) * (3 : Nat)) % (toVal 23).toNat = 1)
    ∧ ((0 : Int) = 2 * ((at' 4 0).y.toNat : Int)
      ∧ Nat.gcd ((0 : Int) % (toVal 23).toNat).toNat (toVal 23).toNat ≠ 1) := by
  decide +kernel

theorem witness_GroupLawIsSymmetric :
    2 ≤ (toVal 2).toNat ∧ (at' 5 4).inf = false ∧ (at' 5 27).inf = false
      ∧ ¬ ((at' 5 4).x = (at' 5 27).x ∧ (at' 5 4).y = (at' 5 27).y) := by decide +kernel

theorem witness_DoubleAndAddLoop : (big : Val) ≠ 0 ∧ (toVal 1 : Val) ≠ 0 := by decide +kernel

theorem witness_NoCommandReadsBOrM :
    ∃ t, exec (.fadd .p 3 1 2) (issuing (.fadd .p 3 1 2) toy) = .next t := ⟨_, rfl⟩

theorem witness_IssueThenComplete :
    ({ two with inbox := [.write 0x00C (encode (.fadd .q 3 1 2)), .sequencer] } : State).rst = false
    ∧ two.busy = false ∧ wordOffset 0x00C = 0x00C
    ∧ ∀ ms, (Instr.fadd .q 3 1 2).modSel = some ms → 2 ≤ (two.sel ms).toNat :=
  ⟨rfl, rfl, by decide, fun ms _ => two_le_two ms⟩

theorem witness_FieldCommandsFromIssueToResult :
    two.rst = false ∧ two.busy = false ∧ 2 ≤ (two.sel .q).toNat
    ∧ (1 < (two.sel .q).toNat ∧ (((two.setX 1 big).x 1).toNat * 1) % (two.sel .q).toNat = 1)
    ∧ Nat.gcd (two.x 1).toNat (two.sel .q).toNat ≠ 1 := by decide +kernel

theorem witness_PointCommandsFromIssueToResult :
    two.rst = false ∧ two.busy = false ∧ 2 ≤ two.cfg.p.toNat := by decide +kernel

/-- A good busy state, and one access of each kind that resets nothing, CTRL among them. -/
theorem witness_AccessesWhileBusyDoNotChangeTheResult :
    busyToy.Inv ∧ busyToy.busy = true
      ∧ ∀ e ∈ [Event.read 0x400, .write 0x420 9, .write 0x00C 0, .write 0x004 2, .write 0x008 2],
          Harmless e := by
  refine ⟨busyToy_inv, rfl, fun e h => ?_⟩
  simp only [List.mem_cons, List.not_mem_nil, or_false] at h
  rcases h with rfl | rfl | rfl | rfl | rfl <;> simp only [Harmless] <;> decide

theorem witness_BothOrdersOfARace :
    busyToy.Inv ∧ busyToy.busy = true ∧ busyToy.rst = false
    ∧ (wordOffset 0x00C = 0x00C
      ∧ (decode 0x12010000 = some (.pldg 1) ∧ busyToy.lacksModulus (.pldg 1) = false)
      ∧ decode 0x08800000 = none)
    ∧ LiveWindow busyToy 0x7FC (.field 15) 15
    ∧ wordOffset 0x008 = 0x008
    ∧ (wordOffset 0x004 = 0x004 ∧ (1 : Word).getLsbD 0 = true ∧ (2 : Word).getLsbD 0 = false) :=
  ⟨busyToy_inv, rfl, rfl, ⟨by decide, ⟨by decide, rfl⟩, by decide⟩, ⟨by decide, by decide⟩,
    by decide, by decide, by decide, by decide⟩

/-- PLDG in flight with cfg.P and cfg.Q never written: a command that lacks its modulus can race its
completion. -/
def busyBare : State := flying (.pldg 1) State.reset

theorem busyBare_inv : busyBare.Inv where
  fieldFits := by decide +kernel
  cfgFits c := by cases c <;> decide +kernel
  pointOk i :=
    ⟨by revert i; decide +kernel, by revert i; decide +kernel, by revert i; decide +kernel⟩
  busyQuiet _ := ⟨rfl, rfl⟩
  flightOk r h := by
    have h : State.reset.record (.pldg 1) = r := Option.some.inj h
    subst h
    exact ⟨rfl, fun ms h => (nomatch h), rfl⟩
  illegalLogged h := nomatch h
  modulusLogged h := nomatch h
  held h := nomatch h

theorem witness_BothOrdersOfARace_modulus :
    busyBare.Inv ∧ busyBare.busy = true ∧ busyBare.rst = false
    ∧ decode 0x01031200 = some (.fadd .p 3 1 2) ∧ busyBare.lacksModulus (.fadd .p 3 1 2) = true :=
  ⟨busyBare_inv, rfl, rfl, by decide, by decide +kernel⟩

/-- The boundary offsets that reach no live window: the register ID, CMDLOG, the ends of the reserved
ranges, and word 8 of a 256-bit register. -/
theorem witness_BothOrdersOfARace_no_window :
    (∀ off ∈ [(0x000 : Offset), 0x010, 0x0FC, 0x2C0, 0x3FC, 0x800, 0xFFC], ∀ r k,
      ¬ LiveWindow busyToy off r k)
    ∧ ∀ r k, ¬ LiveWindow (flying (.pmul 1 0 0) toy256) 0x420 r k := by
  have wide : busyToy.width.words = 16 := rfl
  have narrow : (flying (.pmul 1 0 0) toy256).width.words = 8 := rfl
  constructor
  · rintro off hoff r k ⟨hk, ho⟩
    rw [wide] at hk
    have hw := windowAt_base r hk
    rw [← ho] at hw
    have none_at : windowAt (wordOffset off) = none := by
      clear hw ho
      revert off
      decide
    rw [none_at] at hw
    cases hw
  · rintro r k ⟨hk, ho⟩
    rw [narrow] at hk
    have hw := windowAt_base r (by omega : k < 16)
    rw [← ho, show windowAt (wordOffset 0x420) = some (.field 0, 8) by decide] at hw
    cases hw
    omega

theorem witness_EveryStepKeepsTheInvariant :
    (busyToy.Inv ∧ ∃ t, step busyToy = .next t)
      ∧ (flying (.pmul 1 0 0) toy256).Inv ∧ ∃ t, step (flying (.pmul 1 0 0) toy256) = .next t :=
  ⟨⟨busyToy_inv, _, rfl⟩, busyToy256_inv, _, rfl⟩

theorem witness_RunsFromGoodStatesAreSafe : busyToy.Inv := busyToy_inv

theorem witness_BusyEndsWithTheInbox : (flying (.pmul 1 0 0) toy256).Inv := busyToy256_inv

/-- Each move that `Obligations.BusyChangesOnlyByStartCompletionReset`,
`Obligations.DoneFollowsTheLifecycle`, `Obligations.ErrAndCmdlogRecordTheLastWord` and
`Obligations.OverflowBitsAreSticky` speak of: a word accepted that starts, one that is illegal, one
without its modulus, a completion, a W1C write of each bit, a dropped word, a dropped window write,
and each kind of reset. -/
theorem witness_moves :
    StartsCommand (issuing (.fadd .p 3 1 2) toy)
    ∧ (AcceptsWord (host (.write 0x00C 0) toy) 0 ∧ decode 0 = none)
    ∧ (AcceptsWord (issuing (.fadd .p 3 1 2) one) (encode (.fadd .p 3 1 2))
      ∧ decode (encode (.fadd .p 3 1 2)) = some (.fadd .p 3 1 2)
      ∧ one.lacksModulus (.fadd .p 3 1 2) = true)
    ∧ Completes busyToy
    ∧ ClearsBit (host (.write 0x008 0x1802) toy) 1 ∧ ClearsBit (host (.write 0x008 0x1802) toy) 11
    ∧ ClearsBit (host (.write 0x008 0x1802) toy) 12
    ∧ DropsWord (busyHost (.write 0x00C 0))
    ∧ WritesWindow (busyHost (.write 0x7FC 1)) (.field 15) 15 1
    ∧ Resets (busyHost (.write 0x004 3)) ∧ Resets (busyHost (.rst true))
    ∧ Resets (heldHost (.rst false)) :=
  ⟨⟨_, _, ⟨rfl, writesWord_host toy 0x00C _ rfl⟩, (by decide : decode _ = some (.fadd .p 3 1 2)),
      by decide +kernel⟩,
    ⟨⟨rfl, writesWord_host toy 0x00C 0 rfl⟩, by decide⟩,
    ⟨⟨rfl, writesWord_host one 0x00C _ rfl⟩, by decide, by decide +kernel⟩,
    ⟨rfl, rfl, rfl⟩,
    ⟨_, writesWord_host toy 0x008 0x1802 rfl, by decide⟩,
    ⟨_, writesWord_host toy 0x008 0x1802 rfl, by decide⟩,
    ⟨_, writesWord_host toy 0x008 0x1802 rfl, by decide⟩,
    ⟨rfl, 0, writesWord_host busyToy 0x00C 0 rfl⟩,
    ⟨by decide, writesWord_host busyToy 0x7FC 1 rfl⟩,
    .inl ⟨3, writesWord_host busyToy 0x004 3 rfl, by decide⟩,
    .inr (.inl ⟨[], rfl⟩), .inr (.inr ⟨rfl, [], rfl⟩)⟩

theorem witness_BusyChangesOnlyByStartCompletionReset :
    (toy.busy = false ∧ ∃ t, step toy = .next t)
      ∧ (busyToy.busy = true ∧ ∃ t, step busyToy = .next t) :=
  ⟨⟨rfl, _, rfl⟩, rfl, _, rfl⟩

theorem witness_DoneFollowsTheLifecycle : busyToy.Inv ∧ busyToy.busy = true := ⟨busyToy_inv, rfl⟩

theorem not_writesWord_read (off : Offset) (s : State) (o : Nat) (v : Word) :
    ¬ WritesWord (host (.read off) s) o v := fun ⟨_, _, _, h, _⟩ => nomatch h

/-- The host's move is a read of STATUS. -/
def quietToy : State := host (.read 0x008) toy

/-- A step that accepts no word, completes nothing, clears nothing and resets nothing: a read. -/
theorem witness_quiet_step :
    (∃ u, step quietToy = .next u) ∧ (∀ w, ¬ AcceptsWord quietToy w) ∧ ¬ Completes quietToy
      ∧ ¬ Resets quietToy ∧ (∀ n, ¬ ClearsBit quietToy n)
      ∧ ∀ r k v, ¬ WritesWindow quietToy r k v := by
  refine ⟨⟨_, rfl⟩, fun w h => not_writesWord_read _ _ _ _ h.2, fun h => (nomatch h.1), ?_,
    fun n ⟨v, h, _⟩ => not_writesWord_read _ _ _ _ h,
    fun r k v h => not_writesWord_read _ _ _ _ h.2⟩
  rintro (⟨v, h, _⟩ | ⟨_, h⟩ | ⟨h, _⟩)
  · exact not_writesWord_read _ _ _ _ h
  · cases h
  · cases h

/-- A busy step that neither completes nor resets nor writes CTRL: a read. -/
theorem witness_RegistersChangeOnlyBy :
    (∃ t, step (busyHost (.read 0x400)) = .next t) ∧ (busyHost (.read 0x400)).busy = true
      ∧ ¬ Completes (busyHost (.read 0x400)) ∧ ¬ Resets (busyHost (.read 0x400))
      ∧ (∀ v, ¬ WritesWord (busyHost (.read 0x400)) 0x004 v)
      ∧ (∀ i k v, ¬ WritesWindow (busyHost (.read 0x400)) (.field i) k v)
      ∧ ∀ c k v, ¬ WritesWindow (busyHost (.read 0x400)) (.cfg c) k v := by
  have read : ∀ o v, ¬ WritesWord (busyHost (.read 0x400)) o v :=
    not_writesWord_read 0x400 busyToy
  refine ⟨⟨_, rfl⟩, rfl, fun h => (nomatch h.2.2), ?_, read _, fun i k v h => read _ _ h.2,
    fun c k v h => read _ _ h.2⟩
  rintro (⟨v, h, _⟩ | ⟨_, h⟩ | ⟨h, _⟩)
  · exact read _ _ h
  · cases h
  · cases h

/-- The boundary offsets of each clause of a bus read: the last word of a window, the first word past
a 256-bit register, and the ends of each reserved range. -/
theorem witness_BusReadReturnsTheRegister :
    (host (.read 0x7FF) toy).rst = false
    ∧ wordOffset 0x003 = 0x000 ∧ wordOffset 0x007 = 0x004 ∧ wordOffset 0x00B = 0x008
    ∧ wordOffset 0x00F = 0x00C ∧ wordOffset 0x013 = 0x010
    ∧ (wordOffset 0x7FF = (WindowReg.field 15).base + 4 * 15 ∧ 15 < toy.width.words)
    ∧ (wordOffset 0x100 = (WindowReg.cfg .P).base + 4 * 0 ∧ 0 < toy.width.words)
    ∧ (wordOffset 0x2A0 = (WindowReg.cfg .GY).base + 4 * 8 ∧ toy256.width.words ≤ 8)
    ∧ (0x014 ≤ wordOffset 0x014 ∧ wordOffset 0x0FF < 0x100)
    ∧ (0x2C0 ≤ wordOffset 0x2C0 ∧ wordOffset 0x3FF < 0x400)
    ∧ 0x800 ≤ wordOffset 0x800 := by decide

theorem witness_WindowWordsMakeTheValue :
    (toVal (2 ^ 256 - 1)).toNat < 2 ^ Width.w256.bits ∧ big.toNat < 2 ^ Width.w512.bits := by
  decide +kernel

theorem witness_IdleWindowWriteReplacesOneWord :
    WritesWindow (host (.write 0x7FC 1) toy) (.field 15) 15 1
      ∧ WritesWindow (host (.write 0x29C 1) toy256) (.cfg .GY) 7 1 ∧ toy256.busy = false :=
  ⟨⟨by decide, writesWord_host toy 0x7FC 1 rfl⟩, ⟨by decide, writesWord_host toy256 0x29C 1 rfl⟩,
    rfl⟩

theorem witness_WindowWriteDroppedOrIgnored :
    (WritesWindow (busyHost (.write 0x400 1)) (.field 0) 0 1
      ∧ (busyHost (.write 0x400 1)).busy = true)
    ∧ (toy256.width.words ≤ 8 ∧ wordOffset 0x420 = (WindowReg.field 0).base + 4 * 8
      ∧ WritesWord (host (.write 0x420 1) toy256) ((WindowReg.field 0).base + 4 * 8) 1) :=
  ⟨⟨⟨by decide, writesWord_host busyToy 0x400 1 rfl⟩, rfl⟩, by decide, by decide,
    writesWord_host toy256 0x420 1 rfl⟩

theorem witness_ReservedOffsetsReadZeroAndIgnoreWrites :
    ((host (.read 0x014) toy).rst = false ∧ 0x014 ≤ wordOffset 0x014 ∧ wordOffset 0x0FF < 0x100
      ∧ 0x2C0 ≤ wordOffset 0x2C0 ∧ wordOffset 0x3FF < 0x400 ∧ 0x800 ≤ wordOffset 0x800) ∧
    WritesWord (host (.write 0x000 1) toy) 0x000 1 ∧ WritesWord (host (.write 0x010 1) toy) 0x010 1
    ∧ WritesWord (host (.write 0x014 1) toy) 0x014 1 ∧ WritesWord (host (.write 0x0FC 1) toy) 0x0FC 1
    ∧ WritesWord (host (.write 0x2C0 1) toy) 0x2C0 1 ∧ WritesWord (host (.write 0x3FC 1) toy) 0x3FC 1
    ∧ WritesWord (host (.write 0x800 1) toy) 0x800 1
    ∧ WritesWord (host (.write 0xFFC 1) toy) 0xFFC 1 :=
  ⟨by decide, writesWord_host toy 0x000 1 rfl, writesWord_host toy 0x010 1 rfl,
    writesWord_host toy 0x014 1 rfl, writesWord_host toy 0x0FC 1 rfl,
    writesWord_host toy 0x2C0 1 rfl, writesWord_host toy 0x3FC 1 rfl,
    writesWord_host toy 0x800 1 rfl, writesWord_host toy 0xFFC 1 rfl⟩

theorem witness_StatusWriteClearsOnlyItsBits :
    WritesWord (host (.write 0x008 0x1802) toy) 0x008 0x1802 := writesWord_host toy 0x008 _ rfl

theorem witness_CtrlWriteSetsEnableOrResets :
    (WritesWord (host (.write 0x004 2) toy) 0x004 2 ∧ (2 : Word).getLsbD 0 = false)
      ∧ (WritesWord (host (.write 0x004 3) toy) 0x004 3 ∧ (3 : Word).getLsbD 0 = true)
      ∧ (host (.read 0x007) toy).rst = false ∧ wordOffset 0x007 = 0x004 :=
  ⟨⟨writesWord_host toy 0x004 2 rfl, by decide⟩,
    ⟨writesWord_host toy 0x004 3 rfl, by decide⟩, rfl, by decide⟩

theorem witness_ResetLeavesTheResetState :
    Resets (busyHost (.write 0x004 1)) ∧ (Instr.fadd .p 0 0 0).modSel ≠ none
    ∧ (busyHost (.rst true)).inbox = .rst true :: [] ∧ (heldHost (.rst false)).inbox = .rst false :: []
    ∧ ((∃ t, step (heldHost (.read 0)) = .next t) ∧ ∀ b rest, (heldHost (.read 0)).inbox ≠ .rst b :: rest)
    ∧ ((busyHost (.rst false)).inbox = .rst false :: [] ∧ (busyHost (.rst false)).rst = false) :=
  ⟨.inl ⟨1, writesWord_host busyToy 0x004 1 rfl, by decide⟩, nofun, rfl, rfl,
    ⟨⟨_, rfl⟩, nofun⟩, rfl, rfl⟩

/-- Asserting the input mid-command holds CORE; releasing it ends the hold, in the reset state. -/
theorem test_rst_level :
    stepGives (busyHost (.rst true)) (fun t => t.rst && !t.busy) = true
      ∧ stepGives (heldHost (.rst false)) (fun t => decide (t = State.reset)) = true := by
  decide +kernel

theorem witness_ResetInputHoldsCore :
    (heldHost (.write 0x00C 0)).rst = true
      ∧ (heldHost (.write 0x00C 0)).inbox = .write 0x00C 0 :: []
      ∧ (heldHost (.read 0x000)).inbox = .read 0x000 :: []
      ∧ (heldHost .sequencer).turn = .sequencer := ⟨rfl, rfl, rfl, rfl⟩

theorem witness_IrqIsEnableAndDone :
    (DropsWord (busyHost (.write 0x00C 0)) ∧ ∃ t, step (busyHost (.write 0x00C 0)) = .next t)
      ∧ ((busyHost (.write 0x400 1)).busy = true
        ∧ WritesWindow (busyHost (.write 0x400 1)) (.field 0) 0 1)
      ∧ (WritesWord (host (.write 0x004 2) toy) 0x004 2 ∧ (2 : Word).getLsbD 0 = false) :=
  ⟨⟨⟨rfl, 0, writesWord_host busyToy 0x00C 0 rfl⟩, _, rfl⟩,
    ⟨rfl, by decide, writesWord_host busyToy 0x400 1 rfl⟩,
    writesWord_host toy 0x004 2 rfl, by decide⟩

theorem witness_HostAddressesReachTheWindow :
    0x0FFF < 0x1000 ∧ 0x1000 + 4096 ≤ 0x2000 ∧ offsetOf 0x1000 0x1FFF = some 0xFFF := by decide

theorem witness_SoftResetPutsEverythingAtReset :
    WritesWord (busyHost (.write 0x004 3)) 0x004 3 ∧ (3 : Word).getLsbD 0 = true :=
  ⟨writesWord_host busyToy 0x004 3 rfl, by decide⟩

end Sys2Proof.Tests
end

section
/-! PROOF. A word that decodes is the word of its command (30_encoding.md R84, R87). -/

namespace Sys2Proof

/-- The word of the fields of a word is that word (30_encoding.md R81). -/
theorem Fields.toWord_ofWord (w : Word) : (Fields.ofWord w).toWord = w := by
  apply BitVec.eq_of_getLsbD_eq
  intro i hi
  simp only [Fields.ofWord, Fields.toWord]
  interval_cases i <;> simp

theorem FReg.bits_toFin (v : BitVec 4) : FReg.bits v.toFin = v := by
  simp [FReg.bits]

/-- The index of a point register drops bit 3 of its operand field. -/
theorem PReg.bits_toFin (w : Word) (n : Nat) :
    PReg.bits (w.extractLsb' n 3).toFin = w.extractLsb' n 4 &&& 7#4 := by
  apply BitVec.eq_of_toNat_eq
  have hmask := Nat.and_two_pow_sub_one_eq_mod (w.toNat >>> n % 16) 3
  simp [PReg.bits] at hmask ⊢
  omega

@[simp] theorem bits_fieldD (w : Word) : FReg.bits (fieldD w) = w.extractLsb' 16 4 :=
  FReg.bits_toFin _
@[simp] theorem bits_fieldA (w : Word) : FReg.bits (fieldA w) = w.extractLsb' 12 4 :=
  FReg.bits_toFin _
@[simp] theorem bits_fieldB (w : Word) : FReg.bits (fieldB w) = w.extractLsb' 8 4 :=
  FReg.bits_toFin _
@[simp] theorem bits_pointD (w : Word) : PReg.bits (pointD w) = w.extractLsb' 16 4 &&& 7#4 :=
  PReg.bits_toFin ..
@[simp] theorem bits_pointA (w : Word) : PReg.bits (pointA w) = w.extractLsb' 12 4 &&& 7#4 :=
  PReg.bits_toFin ..
@[simp] theorem bits_pointB (w : Word) : PReg.bits (pointB w) = w.extractLsb' 8 4 &&& 7#4 :=
  PReg.bits_toFin ..

@[simp] theorem bit_msOf (w : Word) : (msOf w).bit = w.extractLsb' 23 1 := by
  apply BitVec.eq_of_getLsbD_eq
  intro i hi
  obtain rfl : i = 0 := by omega
  cases h : w[23] <;> simp [msOf, h, ModSel.bit]

/-- A row's command keeps the bits of the word outside the row's mask, and has the row's pattern
inside it (30_encoding.md R86). -/
theorem fields_operandsOf {r : Row} (hr : r ∈ opcodeTable) (w : Word) :
    (operandsOf r.op w).fields = Fields.ofWord (r.pattern ||| (w &&& ~~~r.mask)) := by
  have nibble (v : BitVec 4) : v &&& 15#4 = v := BitVec.and_allOnes
  have bit (v : BitVec 1) : v &&& 1#1 = v := BitVec.and_allOnes
  simp only [opcodeTable, List.mem_append, List.mem_cons, List.not_mem_nil, or_false] at hr
  rcases hr with (rfl | rfl | rfl | rfl | rfl | rfl | rfl | rfl) |
      (rfl | rfl | rfl | rfl | rfl | rfl | rfl | rfl) <;>
    simp [operandsOf, Instr.fields, Fields.ofWord, Op.opc, BitVec.extractLsb'_or,
      BitVec.extractLsb'_and, nibble, bit]

/-- No bit of a word that decodes is ignored. -/
theorem encode_of_decode {w : Word} {i : Instr} (h : decode w = some i) : encode i = w := by
  obtain ⟨r, hfind, rfl⟩ := Option.map_eq_some_iff.mp h
  have hsel : w &&& r.mask = r.pattern := by
    simpa [Row.selects] using List.find?_some hfind
  rw [encode, fields_operandsOf (List.mem_of_find?_eq_some hfind), Fields.toWord_ofWord, ← hsel,
    ← BitVec.and_or_distrib_left, BitVec.or_not_self, BitVec.and_allOnes]

end Sys2Proof
end

section
/-! PROOF. The moves of a step read with the events of Safety.lean: what each move does, and which
events it is. -/

namespace Sys2Proof

/-- K is at most the number of words of a window (00_scope.md R6). -/
theorem Width.words_le (w : Width) : w.words ≤ 16 := by
  cases w <;> decide

end Sys2Proof

namespace Sys2Proof.Machine

/-! ### Which events a write is -/

/-- A move writes at most one word. -/
theorem WritesWord.unique {s : State} {o p : Nat} {v w : Word} (h : WritesWord s o v)
    (h' : WritesWord s p w) : p = o ∧ w = v := by
  obtain ⟨-, off, rest, hi, rfl⟩ := h
  obtain ⟨-, off', rest', hi', rfl⟩ := h'
  rw [hi] at hi'
  cases hi'
  exact ⟨rfl, rfl⟩

/-- No window lies over the control registers. -/
theorem WindowReg.base_add_ne (r : WindowReg) (k : Nat) {o : Nat} (ho : o < 0x100) :
    r.base + 4 * k ≠ o := by
  have := r.base_ge
  omega

section Write
variable {s : State} {o : Nat} {v : Word} (h : WritesWord s o v)
include h

theorem WritesWord.writesWord_iff {p : Nat} {w : Word} : WritesWord s p w ↔ p = o ∧ w = v :=
  ⟨h.unique, by rintro ⟨rfl, rfl⟩; exact h⟩

/-- Most events are of the form "some word is written and `P` holds of it". -/
theorem WritesWord.exists_iff {p : Nat} {P : Word → Prop} :
    (∃ w, WritesWord s p w ∧ P w) ↔ o = p ∧ P v := by
  simp [h.writesWord_iff, and_assoc, eq_comm (a := o)]

theorem WritesWord.resets_iff : Resets s ↔ o = 0x004 ∧ v[0] = true := by
  obtain ⟨-, off, rest, hi, -⟩ := id h
  simpa [Resets, hi] using h.exists_iff (p := 0x004) (P := fun w => w[0] = true)

theorem WritesWord.clearsBit_iff {n : Nat} :
    ClearsBit s n ↔ o = 0x008 ∧ v.getLsbD n = true := h.exists_iff

theorem WritesWord.acceptsWord_iff {w : Word} :
    AcceptsWord s w ↔ s.busy = false ∧ o = 0x00C ∧ w = v := by
  rw [AcceptsWord, h.writesWord_iff, eq_comm (a := o)]

theorem WritesWord.dropsWord_iff : DropsWord s ↔ s.busy = true ∧ o = 0x00C := by
  simp [DropsWord, h.writesWord_iff, eq_comm (a := o)]

theorem WritesWord.startsCommand_iff : StartsCommand s ↔
    s.busy = false ∧ o = 0x00C ∧ ∃ c, decode v = some c ∧ s.lacksModulus c = false := by
  simp only [StartsCommand, AcceptsWord, and_assoc, exists_and_left, h.exists_iff]

theorem WritesWord.exists_writesWindow_iff : (∃ r k w, WritesWindow s r k w) ↔
    ∃ (r : WindowReg) (k : Nat), k < s.width.words ∧ r.base + 4 * k = o := by
  simp [WritesWindow, h.writesWord_iff]

theorem WritesWord.not_completes : ¬ Completes s := by
  obtain ⟨-, off, rest, hi, -⟩ := h
  rintro ⟨-, -, ht⟩
  rw [turn_of_write hi] at ht
  cases ht

end Write

/-! ### Which events a move that writes nothing is -/

section NoWrite
variable {s : State} (h : ∀ o v, ¬ WritesWord s o v)
include h

theorem not_acceptsWord_of_no_write (w : Word) : ¬ AcceptsWord s w := fun ha => h _ _ ha.2
theorem not_startsCommand_of_no_write : ¬ StartsCommand s := fun ⟨_, _, ha, _⟩ => h _ _ ha.2
theorem not_dropsWord_of_no_write : ¬ DropsWord s := fun ⟨_, _, hw⟩ => h _ _ hw
theorem not_clearsBit_of_no_write (n : Nat) : ¬ ClearsBit s n := fun ⟨_, hw, _⟩ => h _ _ hw
theorem not_writesWindow_of_no_write (r : WindowReg) (k : Nat) (v : Word) :
    ¬ WritesWindow s r k v := fun hw => h _ _ hw.2

end NoWrite

/-- A completion is no host move. -/
theorem Completes.not_writesWord {s : State} (h : Completes s) (o : Nat) (v : Word) :
    ¬ WritesWord s o v := fun hw => hw.not_completes h

theorem Completes.not_resets {s : State} (h : Completes s) : ¬ Resets s := by
  rintro (⟨v, hw, -⟩ | ⟨rest, hi⟩ | ⟨-, rest, hi⟩)
  · exact h.not_writesWord _ _ hw
  all_goals
    have ht := h.2.2
    simp [State.turn, hi] at ht

/-! ### Which events a reset is -/

/-- The only write that resets is one of CTRL. -/
theorem Resets.not_writesWord {s : State} (h : Resets s) {o : Nat} (ho : o ≠ 0x004) (v : Word) :
    ¬ WritesWord s o v := fun hw => ho (hw.resets_iff.mp h).1

theorem Resets.not_acceptsWord {s : State} (h : Resets s) (w : Word) : ¬ AcceptsWord s w :=
  fun ha => h.not_writesWord (by decide) w ha.2

theorem Resets.not_startsCommand {s : State} (h : Resets s) : ¬ StartsCommand s :=
  fun ⟨w, _, ha, _⟩ => h.not_acceptsWord w ha

theorem Resets.not_clearsBit {s : State} (h : Resets s) (n : Nat) : ¬ ClearsBit s n :=
  fun ⟨v, hw, _⟩ => h.not_writesWord (by decide) v hw

theorem Resets.not_completes {s : State} (h : Resets s) : ¬ Completes s :=
  fun hc => hc.not_resets h

/-! ### What a step answers for a write of one kind -/

/-- A CTRL write. -/
theorem step_of_ctrl {s : State} {v : Word} (h : WritesWord s 0x004 v) :
    step s = .next (s.writeCtrl v).advance := by
  obtain ⟨hr, off, rest, hi, ho⟩ := h
  have hbus : s.busWrite off v = s.writeCtrl v := by simp [State.busWrite, hr, ho]
  rw [step_of_write hi (.inr (by simp [ho])), hbus]

/-- A dropped CMD write, whatever its word (60_exceptions.md R174). -/
theorem step_of_dropped_command {s : State} (h : DropsWord s) :
    step s = .next s.dropCommand.advance := by
  obtain ⟨hb, w, hw⟩ := h
  have hdrop (w' : Word) (c : Option Instr) : s.issue w' c = s.dropCommand := by
    simp [State.issue, hb]
  rcases hd : decode w with _ | c
  · rw [step_of_illegal hw hd, hdrop]
  · rw [step_of_command hw hd, hdrop]

/-- A write of a live window word while BUSY = 1 (20_memory.md R59). -/
theorem step_of_dropped_window {s : State} {r : WindowReg} {k : Nat} {v : Word}
    (h : WritesWindow s r k v) (hb : s.busy = true) :
    step s = .next ({ s with status := { s.status with werr := true } } : State).advance := by
  obtain ⟨hk, hr, off, rest, hi, ho⟩ := h
  have hcmd : wordOffset off ≠ 0x00C := by rw [ho]; exact r.base_add_ne k (by decide)
  rw [step_of_write hi (.inr hcmd),
    s.busWrite_of_window v hr (hk.trans_le s.width.words_le) ho]
  simp [State.writeWindow, Nat.not_le.mpr hk, hb]

/-! ### The moves -/

/-- `Move s t`: a step from s leads to t.  One constructor for each thing a step can do, with the
event it is; `quiet` is every move that leaves CORE's registers alone and writes no word. -/
inductive Move (s : State) : State → Prop
  /-- A CMD write while BUSY = 1 (60_exceptions.md R174). -/
  | drop {w : Word} (hw : WritesWord s 0x00C w) (hb : s.busy = true) :
      Move s s.dropCommand.advance
  /-- A word that is no command (60_exceptions.md R172). -/
  | illegal {w : Word} (hw : WritesWord s 0x00C w) (hb : s.busy = false) (hd : decode w = none) :
      Move s ((s.acceptWord w).raise .illegal).advance
  /-- A command whose modulus is below 2 (60_exceptions.md R173). -/
  | noModulus {w : Word} {c : Instr} (hw : WritesWord s 0x00C w) (hb : s.busy = false)
      (hd : decode w = some c) (hm : s.lacksModulus c = true) :
      Move s ((s.acceptWord w).raise .modulus).advance
  /-- A command that starts execution (20_memory.md R64). -/
  | start {w : Word} {c : Instr} (hw : WritesWord s 0x00C w) (hb : s.busy = false)
      (hd : decode w = some c) (hm : s.lacksModulus c = false) :
      Move s ({ s.acceptWord w with inflight := some (s.record c) } : State).advance
  /-- A CTRL write with bit 0 = 0 (10_state.md R36). -/
  | enable {v : Word} (hw : WritesWord s 0x004 v) (hv : v[0] = false) :
      Move s ({ s with ie := v.getLsbD 1 } : State).advance
  /-- A STATUS write (10_state.md R27). -/
  | statusWrite {v : Word} (hw : WritesWord s 0x008 v) : Move s (s.writeStatus v).advance
  /-- A write of a live window word while BUSY = 1 (20_memory.md R59). -/
  | dropWindow {r : WindowReg} {k : Nat} {v : Word} (hw : WritesWord s (r.base + 4 * k) v)
      (hk : k < s.width.words) (hb : s.busy = true) :
      Move s ({ s with status := { s.status with werr := true } } : State).advance
  /-- A write of a live window word while BUSY = 0 (20_memory.md R58). -/
  | window {r : WindowReg} {k : Nat} {v : Word} (hw : WritesWord s (r.base + 4 * k) v)
      (hk : k < s.width.words) (hb : s.busy = false) :
      Move s (s.setWindowReg r (putWord (s.windowReg r) k v)).advance
  /-- A write that reaches no register (20_memory.md R55, R56). -/
  | ignored {o : Nat} {v : Word} (hw : WritesWord s o v) (hctrl : o ≠ 0x004)
      (hstatus : o ≠ 0x008) (hcmd : o ≠ 0x00C)
      (hwin : ∀ r k w, ¬ WritesWindow s r k w) : Move s s.advance
  /-- A reset, which leaves the input at the level `b` (70_reset_and_hazards.md R200, R201). -/
  | reset (b : Bool) (hr : Resets s) : Move s ({ s.resetCore with rst := b } : State).advance
  /-- The completion step (20_memory.md R66). -/
  | completion {r : Inflight} (hc : Completes s) (hf : s.inflight = some r) :
      Move s (s.complete r.result).advance
  /-- A read, a write while `rst` is asserted, a release of an input that is not asserted, or a turn
  on which nobody has a step to take. -/
  | quiet (w : Word) (n : Nat) (hw : ∀ o v, ¬ WritesWord s o v) (hc : ¬ Completes s)
      (hr : ¬ Resets s) : Move s ({ s with rdata := w, draws := n } : State).advance

/-- A bus read changes what the host has read and the count of free values, nothing else. -/
theorem State.busRead_eq (s : State) (off : Offset) : s.busRead off
    = { s with rdata := (s.busRead off).rdata, draws := (s.busRead off).draws } := by
  unfold State.busRead
  split <;> rfl

/-- A CMD write is one of the four outcomes of `IssueCommand`. -/
theorem Move.of_issue {s : State} {w : Word} (hw : WritesWord s 0x00C w) :
    Move s (s.issue w (decode w)).advance := by
  rcases s.issue_cases w (decode w) with ⟨hb, e⟩ | ⟨hb, hd, e⟩ | ⟨c, hb, hd, hm, e⟩ |
      ⟨c, hb, hd, hm, e⟩ <;> rw [e]
  · exact .drop hw hb
  · exact .illegal hw hb hd
  · exact .noModulus hw hb hd hm
  · exact .start hw hb hd hm

/-- A write of word k of a window, live or not. -/
theorem Move.of_writeWindow {s : State} {r : WindowReg} {k : Nat} {v : Word} (hk : k < 16)
    (hw : WritesWord s (r.base + 4 * k) v) : Move s (s.writeWindow r k v).advance := by
  unfold State.writeWindow
  split_ifs with hdead hb
  · refine .ignored hw (r.base_add_ne k (by decide)) (r.base_add_ne k (by decide))
      (r.base_add_ne k (by decide)) fun r' k' w hw' => ?_
    obtain ⟨hk', hw'⟩ := hw'
    obtain ⟨he, -⟩ := hw.unique hw'
    have hat := windowAt_base r' (hk'.trans_le s.width.words_le)
    rw [he, windowAt_base r hk] at hat
    cases hat
    omega
  · exact .dropWindow hw (by omega) hb
  · exact .window hw (by omega) (by simpa using hb)

/-- A bus write that is no CMD write. -/
theorem Move.of_busWrite {s : State} {off : Offset} {v : Word} {rest : List Event}
    (hi : s.inbox = .write off v :: rest) (h : s.rst = true ∨ wordOffset off ≠ 0x00C) :
    Move s (s.busWrite off v).advance := by
  rcases hr : s.rst with _ | _
  · have hcmd := h.resolve_left (by simp [hr])
    have hw : WritesWord s (wordOffset off) v := ⟨hr, off, rest, hi, rfl⟩
    rcases s.busWrite_cases off v hcmd with ⟨hr', -⟩ | ⟨-, ho, e⟩ | ⟨-, ho, e⟩ |
        ⟨r, k, -, ho, hk, e⟩ | ⟨-, hctrl, hstatus, hnone, e⟩
    · simp [hr] at hr'
    · rw [ho] at hw
      rw [e, State.writeCtrl]
      split_ifs with hv
      · exact .reset s.rst (hw.resets_iff.mpr ⟨rfl, hv⟩)
      · exact .enable hw (by simpa using hv)
    · exact e ▸ .statusWrite (ho ▸ hw)
    · exact e ▸ .of_writeWindow hk (ho ▸ hw)
    · rw [e]
      refine .ignored hw hctrl hstatus hcmd fun r k w hw' => ?_
      obtain ⟨hk, hw'⟩ := hw'
      obtain ⟨he, -⟩ := hw.unique hw'
      rw [← he, windowAt_base r (hk.trans_le s.width.words_le)] at hnone
      cases hnone
  · have hsame : s.busWrite off v = s := by simp [State.busWrite, hr]
    have hno : ∀ o w, ¬ WritesWord s o w := fun o w hw => by simp [hw.1] at hr
    rw [hsame]
    exact .quiet s.rdata s.draws hno (fun hc => by simp [hc.2.1] at hr)
      (by simp [Resets, hno, hi])

/-- Every step is one of the moves. -/
theorem Move.of_step {s t : State} (h : step s = .next t) : Move s t := by
  rcases step_cases s with ⟨w, c, hw, hd, e⟩ | ⟨w, hw, hd, e⟩ | ⟨off, v, rest, hi, ho, e⟩ |
      ⟨off, rest, hi, e⟩ | ⟨b, rest, hi, e⟩ | ⟨r, ht, hr, hf, -, e⟩ | ⟨hi, hidle, e⟩ <;>
    obtain rfl := Host.Outcome.next.inj (h.symm.trans e)
  · rw [encode_of_decode hd, ← hd]
    exact .of_issue hw
  · exact hd ▸ .of_issue hw
  · exact .of_busWrite hi ho
  · have hno : ∀ o w, ¬ WritesWord s o w := by simp [WritesWord, hi]
    rw [s.busRead_eq off]
    exact .quiet _ _ hno (by simp [Completes, State.turn, hi]) (by simp [Resets, hno, hi])
  · have hno : ∀ o w, ¬ WritesWord s o w := by simp [WritesWord, hi]
    rw [State.driveRst]
    split_ifs with hb
    · refine .reset b ?_
      rcases b with _ | _
      · exact .inr (.inr ⟨by simpa using hb, rest, hi⟩)
      · exact .inr (.inl ⟨rest, hi⟩)
    · simp only [Bool.or_eq_true, not_or, Bool.not_eq_true] at hb
      exact .quiet s.rdata s.draws hno (by simp [Completes, State.turn, hi])
        (by simp [Resets, hno, hi, hb])
  · exact .completion ⟨by simp [State.busy, hf], hr, ht⟩ hf
  · have hno : ∀ o w, ¬ WritesWord s o w := by
      rcases hi with ⟨rest, hi⟩ | hi <;> simp [WritesWord, hi]
    refine .quiet s.rdata s.draws hno ?_ ?_
    · rintro ⟨hb, hr, -⟩
      rcases hidle with hr' | hf
      · simp [hr] at hr'
      · simp [State.busy, hf] at hb
    · rcases hi with ⟨rest, hi⟩ | hi <;> simp [Resets, hno, hi]

end Sys2Proof.Machine
end

section
/-! PROOF. What a step does to BUSY, DONE, ERR, CMDLOG, CMDOVF, WERR and IRQ, from the moves
(10_state.md R25 to R42). -/

namespace Sys2Proof.Machine

/-! ### A window write leaves the control registers alone -/

/-- A window write changes the field registers or the configuration, and nothing else. -/
theorem State.setWindowReg_eq (s : State) (r : WindowReg) (v : Val) :
    s.setWindowReg r v = { s with
      fieldRegs := (s.setWindowReg r v).fieldRegs
      cfg := (s.setWindowReg r v).cfg } := by
  rcases r with c | i
  · cases c <;> rfl
  · rfl

@[simp] theorem State.setWindowReg_status (s : State) (r : WindowReg) (v : Val) :
    (s.setWindowReg r v).status = s.status := by
  rw [State.setWindowReg_eq]

@[simp] theorem State.setWindowReg_cmdlog (s : State) (r : WindowReg) (v : Val) :
    (s.setWindowReg r v).cmdlog = s.cmdlog := by
  rw [State.setWindowReg_eq]

@[simp] theorem State.setWindowReg_inflight (s : State) (r : WindowReg) (v : Val) :
    (s.setWindowReg r v).inflight = s.inflight := by
  rw [State.setWindowReg_eq]

/-! ### What a completion keeps and what a reset clears -/

@[simp] theorem State.complete_cmdlog (s : State) (r : Result) :
    (s.complete r).cmdlog = s.cmdlog := by
  rw [State.complete_eq]

@[simp] theorem State.complete_status (s : State) (r : Result) :
    (s.complete r).status = { s.status.withFlags r.z r.id r.ni with done := true } := rfl

@[simp] theorem State.reset_status :
    State.reset.status = ⟨false, .ok, false, false, false, false, false⟩ := rfl

@[simp] theorem State.reset_ie : State.reset.ie = false := rfl

@[simp] theorem State.reset_cmdlog : State.reset.cmdlog = 0 := rfl

@[simp] theorem State.reset_inflight : State.reset.inflight = none := rfl

@[simp] theorem State.writeStatus_status (s : State) (v : Word) :
    (s.writeStatus v).status = { s.status with
      done := s.status.done && !v.getLsbD 1
      cmdovf := s.status.cmdovf && !v.getLsbD 11
      werr := s.status.werr && !v.getLsbD 12 } := rfl

/-- Every register of CORE is at its reset value (10_state.md R43). -/
theorem State.resetCore_isReset (s : State) : IsReset s.resetCore where
  field i := State.reset_x i
  point i := by simp [State.pt, State.reset, Point.identity]
  cfg c := by cases c <;> simp [State.cfgReg, State.reset]
  busy := rfl
  done := rfl
  err := rfl
  z := rfl
  id := rfl
  ni := rfl
  cmdovf := rfl
  werr := rfl
  ie := rfl
  cmdlog := rfl
  inflight := rfl
  irq := rfl

theorem IsReset.advance {t : State} (h : IsReset t) : IsReset t.advance :=
  { h with cfg := by simpa using h.cfg }

/-! ### BUSY -/

@[simp] theorem State.with_ie_busy (s : State) (b : Bool) :
    ({ s with ie := b } : State).busy = s.busy := rfl
@[simp] theorem State.with_status_busy (s : State) (t : Status) :
    ({ s with status := t } : State).busy = s.busy := rfl
@[simp] theorem State.with_rdata_draws_busy (s : State) (w : Word) (n : Nat) :
    ({ s with rdata := w, draws := n } : State).busy = s.busy := rfl
@[simp] theorem State.dropCommand_busy (s : State) : s.dropCommand.busy = s.busy := rfl
@[simp] theorem State.acceptWord_busy (s : State) (w : Word) : (s.acceptWord w).busy = s.busy := rfl
@[simp] theorem State.raise_busy (s : State) (e : ErrCode) : (s.raise e).busy = s.busy := rfl
@[simp] theorem State.writeStatus_busy (s : State) (v : Word) :
    (s.writeStatus v).busy = s.busy := rfl
@[simp] theorem State.setWindowReg_busy (s : State) (r : WindowReg) (v : Val) :
    (s.setWindowReg r v).busy = s.busy := by
  simp [State.busy]

/-- Settles O40, move by move. -/
theorem busyChangesOnlyByStartCompletionReset :
    Obligations.BusyChangesOnlyByStartCompletionReset := by
  intro s t h
  cases Move.of_step h with
  | start hw hb hd hm =>
    exact ⟨fun _ => iff_of_true rfl ⟨_, _, ⟨hb, hw⟩, hd, hm⟩, fun hb' => by simp [hb] at hb'⟩
  | illegal hw hb hd | noModulus hw hb hd hm =>
    simp [hw.startsCommand_iff, *]
  | drop hw hb | dropWindow hw hk hb =>
    simp [hw.resets_iff, hw.not_completes, hb, WindowReg.base_add_ne]
  | window hw hk hb => simp [hw.startsCommand_iff, hb, WindowReg.base_add_ne]
  | enable hw hv | statusWrite hw | ignored hw hctrl hstatus hcmd hwin =>
    simp [hw.startsCommand_iff, hw.resets_iff, hw.not_completes, *]
  | reset b hr => simp [State.busy, hr, hr.not_startsCommand]
  | completion hc hf => simp [hc, hc.1]
  | quiet w n hw hc hr => simp [hc, hr, not_startsCommand_of_no_write hw]

/-! ### DONE -/

/-- Settles O41, move by move; the last clause is part of the invariant. -/
theorem doneFollowsTheLifecycle : Obligations.DoneFollowsTheLifecycle := by
  refine ⟨fun s t h => ?_, fun s hinv hb => (hinv.busyQuiet hb).1⟩
  cases Move.of_step h with
  | start hw hb hd hm | illegal hw hb hd | noModulus hw hb hd hm =>
    simp [hw.startsCommand_iff, hw.acceptsWord_iff, hw.clearsBit_iff, hw.resets_iff,
      hw.not_completes, *]
  | drop hw hb | dropWindow hw hk hb | window hw hk hb | enable hw hv
  | ignored hw hctrl hstatus hcmd hwin =>
    simp [hw.startsCommand_iff, hw.acceptsWord_iff, hw.clearsBit_iff, hw.resets_iff,
      hw.not_completes, WindowReg.base_add_ne, *]
  | statusWrite hw =>
    simp +contextual [hw.startsCommand_iff, hw.acceptsWord_iff, hw.clearsBit_iff, hw.resets_iff,
      hw.not_completes]
  | reset b hr =>
    simp [hr, hr.not_startsCommand, hr.not_acceptsWord, hr.not_completes, hr.not_clearsBit]
  | completion hc hf =>
    have hno := hc.not_writesWord
    simp [hc, hc.not_resets, not_startsCommand_of_no_write hno, not_acceptsWord_of_no_write hno,
      not_clearsBit_of_no_write hno]
  | quiet w n hno hc hr =>
    simp [hc, hr, not_startsCommand_of_no_write hno, not_acceptsWord_of_no_write hno,
      not_clearsBit_of_no_write hno]

/-! ### ERR and CMDLOG -/

/-- Settles O42, move by move; a word that decodes is the word of its command
(`encode_of_decode`), so the word logged is the word written. -/
theorem errAndCmdlogRecordTheLastWord : Obligations.ErrAndCmdlogRecordTheLastWord := by
  refine ⟨fun s t h => ?_, fun s => by cases s.status.err <;> decide⟩
  cases Move.of_step h with
  | start hw hb hd hm | illegal hw hb hd | noModulus hw hb hd hm =>
    simp [hw.acceptsWord_iff, hw.resets_iff, ErrCode.bits, *]
  | drop hw hb | dropWindow hw hk hb | window hw hk hb | enable hw hv | statusWrite hw
  | ignored hw hctrl hstatus hcmd hwin =>
    simp [hw.acceptsWord_iff, hw.resets_iff, WindowReg.base_add_ne, *]
  | reset b hr => simp [hr, hr.not_acceptsWord, ErrCode.bits]
  | completion hc hf => simp [hc.not_resets, not_acceptsWord_of_no_write hc.not_writesWord]
  | quiet w n hno hc hr => simp [hr, not_acceptsWord_of_no_write hno]

/-! ### CMDOVF and WERR -/

/-- Settles O43, move by move. -/
theorem overflowBitsAreSticky : Obligations.OverflowBitsAreSticky := by
  intro s t h
  cases Move.of_step h with
  | start hw hb hd hm | illegal hw hb hd | noModulus hw hb hd hm =>
    simp [hw.dropsWord_iff, hw.clearsBit_iff, hw.resets_iff, hb]
  | drop hw hb | window hw hk hb | enable hw hv | ignored hw hctrl hstatus hcmd hwin =>
    simp [hw.exists_writesWindow_iff, hw.dropsWord_iff, hw.clearsBit_iff, hw.resets_iff,
      WindowReg.base_add_ne, *]
  | dropWindow hw hk hb =>
    have hdrop : ∃ r k v, WritesWindow s r k v := ⟨_, _, _, hk, hw⟩
    simp [hdrop, hb, hw.dropsWord_iff, hw.clearsBit_iff, hw.resets_iff, WindowReg.base_add_ne]
  | statusWrite hw =>
    simp [hw.exists_writesWindow_iff, hw.dropsWord_iff, hw.clearsBit_iff, hw.resets_iff,
      WindowReg.base_add_ne, and_comm]
  | reset b hr => simp [hr]
  | completion hc hf =>
    have hno := hc.not_writesWord
    simp [hc.not_resets, not_dropsWord_of_no_write hno, not_clearsBit_of_no_write hno,
      not_writesWindow_of_no_write hno]
  | quiet w n hno hc hr =>
    simp [hr, not_dropsWord_of_no_write hno, not_clearsBit_of_no_write hno,
      not_writesWindow_of_no_write hno]

/-! ### CTRL and IRQ -/

/-- A CTRL write with bit 0 = 0 sets IE and nothing else (10_state.md R36). -/
theorem step_of_enable {s : State} {v : Word} (h : WritesWord s 0x004 v)
    (hv : v.getLsbD 0 = false) :
    step s = .next { s with inbox := s.inbox.tail, ie := v.getLsbD 1 } := by
  rw [step_of_ctrl h, State.writeCtrl, hv]
  rfl

/-- A CTRL write with bit 0 = 1 resets, whatever its IE bit (10_state.md R36). -/
theorem step_of_soft_reset {s : State} {v : Word} (h : WritesWord s 0x004 v)
    (hv : v.getLsbD 0 = true) : step s = .next s.resetCore.advance := by
  rw [step_of_ctrl h, State.writeCtrl, if_pos hv]

theorem State.ctrlWord_eq (s : State) : s.ctrlWord = if s.ie then 2 else 0 := by
  cases h : s.ie <;> simp [State.ctrlWord, h]

/-- Settles O54: CTRL reads as IE in bit 1, and a write is one of the two outcomes above. -/
theorem ctrlWriteSetsEnableOrResets : Obligations.CtrlWriteSetsEnableOrResets := by
  refine ⟨fun s v hw => ⟨step_of_enable hw, fun hv => ?_⟩, fun s off rest hr hi ho => ?_, rfl⟩
  · exact ⟨_, step_of_soft_reset hw hv, s.resetCore_isReset.advance, rfl⟩
  · have hpeek : s.peek off = some s.ctrlWord := by simp [State.peek, ho]
    simp [step_of_read hi, State.busRead, hr, hpeek, State.ctrlWord_eq, State.advance, hi]

/-- Settles O57: a dropped write changes CMDOVF or WERR only, a CTRL write IE only. -/
theorem irqIsEnableAndDone : Obligations.IrqIsEnableAndDone := by
  refine ⟨fun s => rfl, fun s t h hdrop => ?_, fun s t v h hw hv => ?_⟩
  · rcases hdrop with hdrop | ⟨hb, r, k, v, hdrop⟩
    · rw [step_of_dropped_command hdrop] at h
      cases h
      rfl
    · rw [step_of_dropped_window hdrop hb] at h
      cases h
      rfl
  · rw [step_of_enable hw hv] at h
    cases h
    exact ⟨rfl, rfl⟩

/-! ### cfg.B and cfg.M -/

/-- `s` with other values in cfg.B and cfg.M. -/
def State.withBM (s : State) (b m : Val) : State :=
  { s with cfg := { s.cfg with b := b, m := m } }

@[simp] theorem State.withBM_turn (s : State) (b m : Val) : (s.withBM b m).turn = s.turn := rfl
@[simp] theorem State.withBM_busy (s : State) (b m : Val) : (s.withBM b m).busy = s.busy := rfl
@[simp] theorem State.withBM_inflight (s : State) (b m : Val) :
    (s.withBM b m).inflight = s.inflight := rfl
@[simp] theorem State.withBM_sel (s : State) (b m : Val) (ms : ModSel) :
    (s.withBM b m).sel ms = s.sel ms := by
  cases ms <;> rfl

@[simp] theorem State.withBM_lacksModulus (s : State) (b m : Val) (c : Instr) :
    (s.withBM b m).lacksModulus c = s.lacksModulus c := by
  simp [State.lacksModulus]

/-- No command samples cfg.B or cfg.M (20_memory.md R65). -/
@[simp] theorem State.withBM_sample (s : State) (b m : Val) (c : Instr) :
    (s.withBM b m).sample c = s.sample c := by
  cases c <;> simp only [State.sample, State.withBM_sel] <;> rfl

@[simp] theorem State.withBM_record (s : State) (b m : Val) (c : Instr) :
    (s.withBM b m).record c = s.record c := by
  simp [State.record]

theorem State.issue_withBM (s : State) (b m : Val) (w : Word) (c : Option Instr) :
    (s.withBM b m).issue w c = (s.issue w c).withBM b m := by
  unfold State.issue
  simp only [State.withBM_busy, State.withBM_lacksModulus, State.withBM_record]
  cases s.busy with
  | true => rfl
  | false =>
    cases c with
    | none => rfl
    | some c => cases h : s.lacksModulus c <;> simp [h] <;> rfl

theorem State.complete_withBM (s : State) (b m : Val) (r : Result) :
    (s.withBM b m).complete r = (s.complete r).withBM b m := by
  obtain ⟨d | d, z, id, ni⟩ := r <;> rfl

/-- Settles O29: issuing and completing a command commute with a change of cfg.B and cfg.M. -/
theorem noCommandReadsBOrM : Obligations.NoCommandReadsBOrM := by
  intro i s t b m h
  change exec i (s.withBM b m) = .next (t.withBM b m)
  cases ht : s.turn with
  | host =>
    rw [exec_of_host i ht] at h
    cases h
    rw [exec_of_host i (by simpa using ht), State.issue_withBM]
  | sequencer =>
    by_cases hf : ∃ r, s.inflight = some r ∧ r.cmd = i
    · obtain ⟨r, hf, rfl⟩ := hf
      rw [exec_of_sequencer ht hf] at h
      cases h
      rw [exec_of_sequencer (by simpa using ht) (by simpa using hf), State.complete_withBM]
    · have hne : ∀ r, s.inflight = some r → r.cmd ≠ i := fun r hr he => hf ⟨r, hr, he⟩
      rw [exec_of_not_in_flight i ht hne] at h
      cases h
      exact exec_of_not_in_flight i (by simpa using ht) (by simpa using hne)

end Sys2Proof.Machine
end

section
/-! PROOF. CMD writes, bus reads, and the words of the register windows
(20_memory.md R53 to R64). -/

namespace Sys2Proof.Machine

/-! ### A CMD write -/

/-- A CMD write is `IssueCommand`, whether or not its word decodes (20_memory.md R64). -/
theorem step_of_cmd {s : State} {w : Word} (h : WritesWord s 0x00C w) :
    step s = .next (s.issue w (decode w)).advance := by
  rcases hd : decode w with _ | c
  · exact step_of_illegal h hd
  · rw [step_of_command h hd, encode_of_decode hd]

theorem State.lacksModulus_iff (s : State) (c : Instr) :
    s.lacksModulus c = true ↔ ∃ ms, c.modSel = some ms ∧ (s.sel ms).toNat < 2 := by
  cases h : c.modSel <;> simp [State.lacksModulus, h]

theorem State.lacksModulus_eq_false_iff (s : State) (c : Instr) :
    s.lacksModulus c = false ↔ ∀ ms, c.modSel = some ms → 2 ≤ (s.sel ms).toNat := by
  cases h : c.modSel <;> simp [State.lacksModulus, h, Nat.succ_le_iff]

theorem State.issue_of_busy {s : State} (hb : s.busy = true) (w : Word) (c : Option Instr) :
    s.issue w c = s.dropCommand := by
  simp [State.issue, hb]

theorem State.issue_of_illegal {s : State} (hb : s.busy = false) (w : Word) :
    s.issue w none = (s.acceptWord w).raise .illegal := by
  simp [State.issue, hb]

theorem State.issue_of_lacksModulus {s : State} {c : Instr} (hb : s.busy = false)
    (hm : s.lacksModulus c = true) (w : Word) :
    s.issue w (some c) = (s.acceptWord w).raise .modulus := by
  simp [State.issue, hb, hm]

theorem State.issue_of_accepted {s : State} {c : Instr} (hb : s.busy = false)
    (hm : s.lacksModulus c = false) (w : Word) :
    s.issue w (some c) = { s.acceptWord w with inflight := some (s.record c) } := by
  simp [State.issue, hb, hm]

/-- Which commands need a modulus, read off `Instr.modSel` command by command. -/
theorem modulusTable : ModulusTable := by
  refine ⟨fun ms d a b => ?_, fun d a b n => ?_, fun d a b e f => ?_, fun s => ⟨rfl, rfl⟩⟩ <;>
    simp [Instr.modSel]

/-- Settles O13: one case for each outcome of `issue`. -/
theorem cmdWriteIsIssueCommand : Obligations.CmdWriteIsIssueCommand := by
  refine ⟨fun s w hw => ⟨fun hb => ?_, fun hb hd => ?_,
    fun c hb hd => ⟨fun hm => ?_, fun hm => ?_⟩⟩, modulusTable⟩
  · rw [step_of_cmd hw, State.issue_of_busy hb]
    rfl
  · rw [step_of_cmd hw, hd, State.issue_of_illegal hb]
    rfl
  · rw [step_of_cmd hw, hd, State.issue_of_lacksModulus hb ((s.lacksModulus_iff c).mpr hm)]
    rfl
  · rw [step_of_cmd hw, hd, State.issue_of_accepted hb ((s.lacksModulus_eq_false_iff c).mpr hm)]
    rfl

/-! ### What a bus read finds -/

/-- The windows cover 0x100 to 0x2BF and 0x400 to 0x7FF (20_memory.md R53). -/
theorem WindowReg.base_range (r : WindowReg) :
    (0x100 ≤ r.base ∧ r.base ≤ 0x280) ∨ (0x400 ≤ r.base ∧ r.base ≤ 0x7C0) := by
  rcases r with c | i
  · cases c <;> decide
  · simp only [WindowReg.base]
    omega

/-- No window is at a control register or at a reserved offset (20_memory.md R56). -/
theorem windowAt_eq_none {o : Nat} (h : o < 0x100 ∨ (0x2C0 ≤ o ∧ o < 0x400) ∨ 0x800 ≤ o) :
    windowAt o = none := by
  rcases hw : windowAt o with _ | ⟨r, k⟩
  · rfl
  · obtain ⟨hlow, hhigh, -⟩ := windowAt_eq_some hw
    have := r.base_range
    omega

/-- A read of a reserved offset finds 0 (20_memory.md R56). -/
theorem State.peek_of_reserved (s : State) {off : Offset}
    (h : (0x014 ≤ wordOffset off ∧ wordOffset off < 0x100)
      ∨ (0x2C0 ≤ wordOffset off ∧ wordOffset off < 0x400) ∨ 0x800 ≤ wordOffset off) :
    s.peek off = some 0 := by
  have hw : windowAt (wordOffset off) = none := windowAt_eq_none (by omega)
  unfold State.peek
  split
  case h_6 => rw [hw]
  all_goals omega

/-- A read of a word beyond K finds 0, busy or not (20_memory.md R55). -/
theorem State.peek_of_dead_word (s : State) {off : Offset} {r : WindowReg} {k : Nat}
    (hdead : s.width.words ≤ k) (hk : k < 16) (ho : wordOffset off = r.base + 4 * k) :
    s.peek off = some 0 := by
  rw [s.peek_of_window hk ho, if_pos hdead]

/-- Out of reset a bus read takes the word `peek` finds. -/
theorem State.busRead_of_peek {s : State} {off : Offset} {w : Word} (hr : s.rst = false)
    (hp : s.peek off = some w) : s.busRead off = { s with rdata := w } := by
  simp [State.busRead, hr, hp]

/-- Out of reset a bus read of an unspecified word takes a fresh free value (20_memory.md R60). -/
theorem State.busRead_of_unspecified {s : State} {off : Offset} (hr : s.rst = false)
    (hp : s.peek off = none) :
    s.busRead off = { s with rdata := Config.any32 s.draws, draws := s.draws + 1 } := by
  simp [State.busRead, hr, hp]

theorem step_of_read_peek {s : State} {off : Offset} {rest : List Event} {w : Word}
    (hi : s.inbox = .read off :: rest) (hr : s.rst = false) (hp : s.peek off = some w) :
    step s = .next { s with inbox := rest, rdata := w } := by
  rw [step_of_read hi, State.busRead_of_peek hr hp]
  simp [State.advance, hi]

/-- Settles O46: the word read is the one `peek` finds, or a free value where it finds none. -/
theorem busReadReturnsTheRegister : Obligations.BusReadReturnsTheRegister := by
  intro s off rest hi hr
  have found {w : Word} (hp : s.peek off = some w) : (s.busRead off).advance.rdata = w := by
    rw [State.busRead_of_peek hr hp, State.advance_rdata]
  refine ⟨(s.busRead off).advance, step_of_read hi, ?_, fun ho => found ?_, fun ho => ?_,
    fun ho => found ?_, fun ho => found ?_, fun ho => found ?_, fun r k hk ho => ⟨?_, ?_, ?_⟩,
    fun ho => found (s.peek_of_reserved ho)⟩
  · rw [s.busRead_eq off]
    simp [State.advance, hi]
  · simp [State.peek, ho, State.idWord]
  · rw [← State.ctrlWord_eq]
    exact found (by simp [State.peek, ho])
  · simp [State.peek, ho]
  · simp [State.peek, ho]
  · simp [State.peek, ho]
  · exact fun hdead => found (s.peek_of_dead_word hdead hk ho)
  · intro hlive hb
    have hp : s.peek off = none := by
      rw [s.peek_of_window hk ho, if_neg (Nat.not_le.mpr hlive), if_pos hb]
    rw [State.busRead_of_unspecified hr hp]
    exact ⟨rfl, rfl⟩
  · intro hlive hb
    apply found
    rw [s.peek_of_window hk ho, if_neg (Nat.not_le.mpr hlive), hb]
    rfl

/-! ### Window writes, and writes that do nothing -/

theorem State.writeWindow_of_dead {s : State} {r : WindowReg} {k : Nat} {v : Word}
    (hdead : s.width.words ≤ k) : s.writeWindow r k v = s := if_pos hdead

theorem State.writeWindow_of_busy {s : State} {r : WindowReg} {k : Nat} {v : Word}
    (hlive : k < s.width.words) (hb : s.busy = true) :
    s.writeWindow r k v = { s with status := { s.status with werr := true } } := by
  rw [State.writeWindow, if_neg (Nat.not_le.mpr hlive), if_pos hb]

theorem State.writeWindow_of_idle {s : State} {r : WindowReg} {k : Nat} {v : Word}
    (hlive : k < s.width.words) (hb : s.busy = false) :
    s.writeWindow r k v = s.setWindowReg r (putWord (s.windowReg r) k v) := by
  rw [State.writeWindow, if_neg (Nat.not_le.mpr hlive), hb]
  rfl

/-- A write of a word beyond K does nothing, busy or not (20_memory.md R55). -/
theorem step_of_dead_word {s : State} {r : WindowReg} {k : Nat} {v : Word}
    (hdead : s.width.words ≤ k) (hk : k < 16) (h : WritesWord s (r.base + 4 * k) v) :
    step s = .next s.advance := by
  obtain ⟨hr, off, rest, hi, ho⟩ := h
  have hcmd : wordOffset off ≠ 0x00C := by rw [ho]; exact r.base_add_ne k (by decide)
  rw [step_of_write hi (.inr hcmd), s.busWrite_of_window v hr hk ho,
    State.writeWindow_of_dead hdead]

/-- A write that reaches neither a window nor a writable control register does nothing
(20_memory.md R56). -/
theorem step_of_ignored_write {s : State} {o : Nat} {v : Word} (h : WritesWord s o v)
    (hctrl : o ≠ 0x004) (hstatus : o ≠ 0x008) (hcmd : o ≠ 0x00C) (hw : windowAt o = none) :
    step s = .next s.advance := by
  obtain ⟨hr, off, rest, hi, rfl⟩ := h
  have hsame : s.busWrite off v = s := by
    rcases s.busWrite_cases off v hcmd with ⟨-, e⟩ | ⟨-, ho, -⟩ | ⟨-, ho, -⟩ |
        ⟨r, k, -, ho, hk, -⟩ | ⟨-, -, -, -, e⟩
    · exact e
    · exact absurd ho hctrl
    · exact absurd ho hstatus
    · rw [ho, windowAt_base r hk] at hw
      cases hw
    · exact e
  rw [step_of_write hi (.inr hcmd), hsame]

/-- Settles O50: a live word, then a word beyond K written and read, then the two values of K. -/
theorem windowWriteDroppedOrIgnored : Obligations.WindowWriteDroppedOrIgnored := by
  refine ⟨fun s r k v hw hb => ?_, fun s r k v hdead hk hw => ?_,
    fun s off rest r k hr hi hdead hk ho => ?_, rfl, rfl⟩
  · rw [step_of_dropped_window hw hb]
    rfl
  · exact step_of_dead_word hdead hk hw
  · exact step_of_read_peek hi hr (s.peek_of_dead_word hdead hk ho)

/-- Settles O51: no window is at these offsets. -/
theorem reservedOffsetsReadZeroAndIgnoreWrites :
    Obligations.ReservedOffsetsReadZeroAndIgnoreWrites := by
  refine ⟨fun s o v hw ho => ?_, fun s off rest hr hi ho => ?_⟩
  · exact step_of_ignored_write hw (by omega) (by omega) (by omega) (windowAt_eq_none (by omega))
  · exact step_of_read_peek hi hr (s.peek_of_reserved ho)

/-! ### The words of a register value -/

theorem Width.bits_eq (w : Width) : w.bits = 32 * w.words := by
  cases w <;> rfl

theorem wordOf_toNat (v : Val) (k : Nat) :
    (wordOf v k).toNat = v.toNat / (2 ^ 32) ^ k % 2 ^ 32 := by
  rw [wordOf, BitVec.extractLsb'_toNat, Nat.shiftRight_eq_div_pow, pow_mul]

/-- The first n words of a value are its low 32·n bits. -/
theorem sum_wordOf (v : Val) (n : Nat) :
    ((List.range n).map fun k => (wordOf v k).toNat * 2 ^ (32 * k)).sum
      = v.toNat % (2 ^ 32) ^ n := by
  induction n with
  | zero => simp [Nat.mod_one]
  | succ n ih =>
    rw [List.range_succ, List.map_append, List.sum_append, ih, Nat.mod_pow_succ]
    simp only [List.map_cons, List.map_nil, List.sum_singleton]
    rw [wordOf_toNat, pow_mul, Nat.mul_comm]

/-- Settles O48: a W-bit value is its own remainder modulo 2^(32·K). -/
theorem windowWordsMakeTheValue : Obligations.WindowWordsMakeTheValue := by
  refine ⟨fun w v hv => ?_, fun v k j _ hj => ?_, fun r k hk => windowAt_base r hk⟩
  · rw [Width.bits_eq, pow_mul] at hv
    rw [sum_wordOf, Nat.mod_eq_of_lt hv]
  · rw [wordOf_getLsbD, decide_eq_true hj, Bool.true_and]

end Sys2Proof.Machine
end

section
/-! PROOF. A bus access uses its offset without the two low bits (20_memory.md R52), and its effect
does not depend on the moves to come. -/

namespace Sys2Proof.Machine

/-! ### The two low bits of an offset -/

@[simp] theorem wordOffset_masked (off : Offset) :
    wordOffset (off &&& 0xFFC#12) = wordOffset off := by
  simp [wordOffset, BitVec.and_assoc]

@[simp] theorem State.peek_masked (s : State) (off : Offset) :
    s.peek (off &&& 0xFFC#12) = s.peek off := by
  simp only [State.peek, wordOffset_masked]

@[simp] theorem State.busRead_masked (s : State) (off : Offset) :
    s.busRead (off &&& 0xFFC#12) = s.busRead off := by
  simp only [State.busRead, State.peek_masked]

@[simp] theorem State.busWrite_masked (s : State) (off : Offset) (v : Word) :
    s.busWrite (off &&& 0xFFC#12) v = s.busWrite off v := by
  simp only [State.busWrite, wordOffset_masked]

/-! ### The moves to come -/

/-- `s` with other moves to come. -/
def State.withInbox (s : State) (es : List Event) : State := { s with inbox := es }

@[simp] theorem State.withInbox_inbox (s : State) (es : List Event) :
    (s.withInbox es).inbox = es := rfl
@[simp] theorem State.withInbox_rst (s : State) (es : List Event) :
    (s.withInbox es).rst = s.rst := rfl

theorem State.peek_withInbox (s : State) (es : List Event) (off : Offset) :
    (s.withInbox es).peek off = s.peek off := rfl

/-- What a bus read does has nothing to do with the moves to come. -/
theorem State.busRead_withInbox (s : State) (es : List Event) (off : Offset) :
    (s.withInbox es).busRead off = (s.busRead off).withInbox es := by
  cases hr : s.rst with
  | true =>
    simp only [State.busRead, State.withInbox_rst, hr, if_true]
    rfl
  | false =>
    cases hp : s.peek off with
    | none =>
      rw [State.busRead_of_unspecified hr hp]
      exact State.busRead_of_unspecified (s := s.withInbox es) hr hp
    | some w =>
      rw [State.busRead_of_peek hr hp]
      exact State.busRead_of_peek (s := s.withInbox es) hr hp

theorem State.issue_withInbox (s : State) (es : List Event) (w : Word) (c : Option Instr) :
    (s.withInbox es).issue w c = (s.issue w c).withInbox es := by
  rcases s.issue_cases w c with ⟨hb, e⟩ | ⟨hb, rfl, e⟩ | ⟨i, hb, rfl, hm, e⟩ |
      ⟨i, hb, rfl, hm, e⟩ <;> rw [e]
  · exact State.issue_of_busy (s := s.withInbox es) hb w c
  · exact State.issue_of_illegal (s := s.withInbox es) hb w
  · exact State.issue_of_lacksModulus (s := s.withInbox es) hb hm w
  · exact State.issue_of_accepted (s := s.withInbox es) hb hm w

theorem State.writeCtrl_withInbox (s : State) (es : List Event) (v : Word) :
    (s.withInbox es).writeCtrl v = (s.writeCtrl v).withInbox es := by
  unfold State.writeCtrl
  split <;> rfl

theorem State.writeCmd_withInbox (s : State) (es : List Event) (v : Word) :
    (s.withInbox es).writeCmd v = (s.writeCmd v).withInbox es := by
  unfold State.writeCmd
  split
  · exact s.issue_withInbox es v none
  · rfl

theorem State.setWindowReg_withInbox (s : State) (es : List Event) (r : WindowReg) (v : Val) :
    (s.withInbox es).setWindowReg r v = (s.setWindowReg r v).withInbox es := by
  rcases r with c | i
  · cases c <;> rfl
  · rfl

theorem State.writeWindow_withInbox (s : State) (es : List Event) (r : WindowReg) (k : Nat)
    (v : Word) : (s.withInbox es).writeWindow r k v = (s.writeWindow r k v).withInbox es := by
  by_cases hdead : s.width.words ≤ k
  · rw [State.writeWindow_of_dead hdead]
    exact State.writeWindow_of_dead (s := s.withInbox es) hdead
  have hlive : k < s.width.words := Nat.not_le.mp hdead
  rcases hb : s.busy with _ | _
  · rw [State.writeWindow_of_idle hlive hb, ← State.setWindowReg_withInbox]
    exact State.writeWindow_of_idle (s := s.withInbox es) hlive hb
  · rw [State.writeWindow_of_busy hlive hb]
    exact State.writeWindow_of_busy (s := s.withInbox es) hlive hb

/-- What a bus write does has nothing to do with the moves to come. -/
theorem State.busWrite_withInbox (s : State) (es : List Event) (off : Offset) (v : Word) :
    (s.withInbox es).busWrite off v = (s.busWrite off v).withInbox es := by
  rcases hr : s.rst with _ | _
  · simp only [State.busWrite, State.withInbox_rst, hr, Bool.false_eq_true, if_false]
    split
    · exact s.writeCtrl_withInbox es v
    · rfl
    · exact s.writeCmd_withInbox es v
    · split
      · exact s.writeWindow_withInbox es _ _ v
      · rfl
  · simp only [State.busWrite, State.withInbox_rst, hr, if_true]

/-- A bus read as the next move: the step is the read, whatever comes after. -/
theorem step_withInbox_read (s : State) (off : Offset) (rest : List Event) :
    step (s.withInbox (.read off :: rest)) = .next ((s.busRead off).withInbox rest) := by
  rw [step_of_read (s.withInbox_inbox _), State.busRead_withInbox]
  rfl

/-- A bus write as the next move: `IssueCommand` for a CMD write, `MemWrite` for every other,
whatever comes after. -/
theorem step_withInbox_write (s : State) (off : Offset) (v : Word) (rest : List Event) :
    step (s.withInbox (.write off v :: rest))
      = .next ((if s.rst = false ∧ wordOffset off = 0x00C then s.issue v (decode v)
          else s.busWrite off v).withInbox rest) := by
  have hi : (s.withInbox (.write off v :: rest)).inbox = .write off v :: rest := rfl
  split_ifs with hcmd
  · have hw : WritesWord (s.withInbox (.write off v :: rest)) 0x00C v :=
      ⟨hcmd.1, off, rest, hi, hcmd.2⟩
    rw [step_of_cmd hw, State.issue_withInbox]
    rfl
  · have hother : s.rst = true ∨ wordOffset off ≠ 0x00C := by
      rcases hr : s.rst with _ | _
      · exact .inr fun ho => hcmd ⟨hr, ho⟩
      · exact .inl rfl
    rw [step_of_write hi hother, State.busWrite_withInbox]
    rfl

/-- Settles O52: what an access does depends on its offset through `wordOffset` only. -/
theorem lowOffsetBitsAreIgnored : Obligations.LowOffsetBitsAreIgnored := by
  intro s off v rest
  constructor
  · change step (s.withInbox _) = step (s.withInbox _)
    rw [step_withInbox_read, step_withInbox_read, State.busRead_masked]
  · change step (s.withInbox _) = step (s.withInbox _)
    rw [step_withInbox_write, step_withInbox_write, State.busWrite_masked, wordOffset_masked]

end Sys2Proof.Machine
end

section
/-! PROOF. The mask table of 30_encoding.md R86 and the role table of R82 reject the same words. -/

namespace Sys2Proof

/-! ### A word under a mask, field by field -/

theorem Fields.ofWord_injective : Function.Injective Fields.ofWord := fun v w h => by
  rw [← Fields.toWord_ofWord v, h, Fields.toWord_ofWord]

/-- A mask acts on each field by itself (30_encoding.md R81). -/
theorem Fields.ofWord_and (w m : Word) :
    Fields.ofWord (w &&& m) =
      { opc := (Fields.ofWord w).opc &&& (Fields.ofWord m).opc
        ms := (Fields.ofWord w).ms &&& (Fields.ofWord m).ms
        rsv1 := (Fields.ofWord w).rsv1 &&& (Fields.ofWord m).rsv1
        d := (Fields.ofWord w).d &&& (Fields.ofWord m).d
        a := (Fields.ofWord w).a &&& (Fields.ofWord m).a
        b := (Fields.ofWord w).b &&& (Fields.ofWord m).b
        rsv0 := (Fields.ofWord w).rsv0 &&& (Fields.ofWord m).rsv0 } := by
  simp only [Fields.ofWord, BitVec.extractLsb'_and]

/-! ### The mask of a role -/

/-- The bits of an operand field that its role fixes at 0 (30_encoding.md R82). -/
def Role.mask : Role → BitVec 4
  | .field => 0x0#4
  | .point => 0x8#4
  | .unused => 0xF#4

theorem Role.and_mask_eq_zero_iff (r : Role) (v : BitVec 4) :
    v &&& r.mask = 0 ↔ r.admits v = true := by
  cases r <;> revert v <;> decide

theorem Role.admits_eq_false_iff (r : Role) (v : BitVec 4) :
    r.admits v = false ↔ (r = .point ∧ v.getLsbD 3 = true) ∨ (r = .unused ∧ v ≠ 0) := by
  cases r <;> revert v <;> decide

/-! ### The mask table read as the role table -/

/-- The mask of a row covers OPC, both reserved fields, MS unless it is free, and in each operand
field the bits its role fixes; its pattern is 0 outside OPC (30_encoding.md R82, R86). -/
theorem fields_of_row {r : Row} (hr : r ∈ opcodeTable) :
    Fields.ofWord r.mask = ⟨0xFF, if r.op.roles.msFree then 0 else 1, 7, r.op.roles.d.mask,
        r.op.roles.a.mask, r.op.roles.b.mask, 0xFF⟩
      ∧ Fields.ofWord r.pattern = ⟨r.op.opc, 0, 0, 0, 0, 0, 0⟩ := by
  revert r
  decide

theorem exists_row (op : Op) : ∃ r ∈ opcodeTable, r.op = op := by
  cases op <;> decide

theorem Op.ofOpc_eq_some_iff (opc : BitVec 8) (op : Op) :
    Op.ofOpc opc = some op ↔ opc = op.opc := by
  refine ⟨fun h => ?_, fun h => h ▸ Laws.opc_known op⟩
  unfold Op.ofOpc at h
  split at h <;> cases h <;> exact BitVec.eq_of_toNat_eq ‹_›

theorem Fields.wellFormed_iff {f : Fields} {op : Op} (h : Op.ofOpc f.opc = some op) :
    f.wellFormed = true ↔ f.rsv1 = 0 ∧ f.rsv0 = 0 ∧ (op.roles.msFree = true ∨ f.ms = 0)
      ∧ op.roles.d.admits f.d = true ∧ op.roles.a.admits f.a = true
      ∧ op.roles.b.admits f.b = true := by
  simp [Fields.wellFormed, h, and_assoc]

/-- A word selects a row exactly when its opcode is the row's and its fields pass the checks of
30_encoding.md R82 to R85. -/
theorem Row.selects_iff {r : Row} (hr : r ∈ opcodeTable) (w : Word) :
    r.selects w = true
      ↔ Op.ofOpc (Fields.ofWord w).opc = some r.op ∧ (Fields.ofWord w).wellFormed = true := by
  obtain ⟨hmask, hpattern⟩ := fields_of_row hr
  have hopc (v : BitVec 8) : v &&& 0xFF = v := BitVec.and_allOnes
  have hrsv1 (v : BitVec 3) : v &&& 7 = v := BitVec.and_allOnes
  have hms (v : BitVec 1) : (v &&& if r.op.roles.msFree then 0 else 1) = 0
      ↔ r.op.roles.msFree = true ∨ v = 0 := by
    cases r.op.roles.msFree <;> revert v <;> decide
  rw [Row.selects, beq_iff_eq, ← Fields.ofWord_injective.eq_iff, Fields.ofWord_and, hmask,
    hpattern, Fields.mk.injEq, hopc, hms, hrsv1, hopc, Role.and_mask_eq_zero_iff,
    Role.and_mask_eq_zero_iff, Role.and_mask_eq_zero_iff, Op.ofOpc_eq_some_iff]
  refine and_congr_right fun h => ?_
  rw [Fields.wellFormed_iff ((Op.ofOpc_eq_some_iff _ _).mpr h)]
  exact Iff.of_eq (by ac_rfl)

/-- A word is ILLEGAL exactly when its fields fail the checks (30_encoding.md R87). -/
theorem decode_eq_none_iff (w : Word) :
    decode w = none ↔ (Fields.ofWord w).wellFormed = false := by
  rw [decode, Option.map_eq_none_iff, List.find?_eq_none, ← Bool.not_eq_true]
  constructor
  · intro hnone hwf
    rcases hop : Op.ofOpc (Fields.ofWord w).opc with _ | op
    · simp [Fields.wellFormed, hop] at hwf
    · obtain ⟨r, hr, rfl⟩ := exists_row op
      exact hnone r hr ((Row.selects_iff hr w).mpr ⟨hop, hwf⟩)
  · exact fun hwf r hr hsel => hwf ((Row.selects_iff hr w).mp hsel).2

/-! ### The reasons a word is ILLEGAL -/

/-- What is wrong with the fields of an assigned opcode that fail the checks. -/
theorem Fields.wellFormed_eq_false_iff {f : Fields} {op : Op} (h : Op.ofOpc f.opc = some op) :
    f.wellFormed = false ↔ f.rsv1 ≠ 0 ∨ f.rsv0 ≠ 0 ∨ (op.roles.msFree = false ∧ f.ms ≠ 0)
      ∨ op.roles.d.admits f.d = false ∨ op.roles.a.admits f.a = false
      ∨ op.roles.b.admits f.b = false := by
  rw [← Bool.not_eq_true, Fields.wellFormed_iff h]
  simp only [not_and_or, not_or, Bool.not_eq_true, ne_eq]

/-- Settles O4: the checks the mask table makes are those of the role table. -/
theorem illegalExactlyWhenAFieldIsWrong : Obligations.IllegalExactlyWhenAFieldIsWrong := by
  intro w
  rw [decode_eq_none_iff]
  rcases hop : Op.ofOpc (Fields.ofWord w).opc with _ | op
  · simp [Fields.wellFormed, hop]
  · simp only [Fields.wellFormed_eq_false_iff hop, Role.admits_eq_false_iff, reduceCtorEq,
      false_or, Option.some.injEq, exists_eq_left']
    exact Iff.of_eq (by ac_rfl)

end Sys2Proof
end

section
/-! PROOF. Which lines an assembler takes, and for what commands (30_encoding.md R90), with the
examples of R93. -/

namespace Sys2Proof

/-! ### The checks of a line -/

/-- The role an operand of this kind can fill. -/
def AsmOperand.role : AsmOperand → Role
  | .r _ => .field
  | .p _ => .point

/-- The operand names a register that exists. -/
def AsmOperand.inRange : AsmOperand → Bool
  | .r n => n < 16
  | .p n => n < 8

theorem AsmOperand.fits_iff (o : AsmOperand) (r : Role) :
    o.fits r = true ↔ o.inRange = true ∧ o.role = r := by
  cases o <;> cases r <;> simp [AsmOperand.fits, AsmOperand.role, AsmOperand.inRange]

/-- A line is taken when its suffix is allowed, its operands are registers that exist, and their
kinds are those of the used roles, in order. -/
theorem AsmLine.wellFormed_iff (l : AsmLine) :
    l.wellFormed = true ↔ l.op.takesSuffix l.suffix = true
      ∧ (∀ o ∈ l.operands, o.inRange = true)
      ∧ l.operands.map AsmOperand.role = l.op.roles.written := by
  have hfit : (l.operands.length = l.op.roles.written.length
      ∧ ∀ o r, (o, r) ∈ l.operands.zip l.op.roles.written → o.fits r = true)
      ↔ (∀ o ∈ l.operands, o.inRange = true)
        ∧ l.operands.map AsmOperand.role = l.op.roles.written := by
    simp only [AsmOperand.fits_iff]
    rw [← List.forall₂_iff_zip, List.forall₂_and_left,
      ← List.forall₂_map_left_iff (R := Eq), List.forall₂_eq_eq_eq]
  rw [← hfit]
  simp [AsmLine.wellFormed, and_assoc]

/-! ### The lines an assembler refuses -/

theorem assemble_eq_none {l : AsmLine} (h : l.wellFormed = false) : assemble l = none := if_pos h

theorem wellFormed_of_assemble {l : AsmLine} {i : Instr} (h : assemble l = some i) :
    l.wellFormed = true := by
  rcases hwf : l.wellFormed with _ | _
  · rw [assemble_eq_none hwf] at h
    cases h
  · rfl

theorem assemble_of_bad_suffix {l : AsmLine} (h : l.op.takesSuffix l.suffix = false) :
    assemble l = none := by
  apply assemble_eq_none
  simp [AsmLine.wellFormed, h]

theorem assemble_of_out_of_range {l : AsmLine} {o : AsmOperand} (ho : o ∈ l.operands)
    (h : o.inRange = false) : assemble l = none := by
  apply assemble_eq_none
  rw [← Bool.not_eq_true, AsmLine.wellFormed_iff]
  rintro ⟨-, hrange, -⟩
  simp [hrange o ho] at h

/-! ### The lines an assembler takes -/

/-- A command with a modulus takes either suffix or none. -/
theorem Op.takesSuffix_of_msFree {op : Op} (h : op.roles.msFree = true) (x : Option ModSel) :
    op.takesSuffix x = true := by
  rcases x with _ | _ | _
  · rfl
  · revert h
    cases op <;> decide
  · exact h

/-- The lines of the field commands, with the suffix where the command has a modulus. -/
theorem assemble_field_commands (ms : ModSel) (d a b : FReg) :
    assemble ⟨.FADD, some ms, [.r d, .r a, .r b]⟩ = some (.fadd ms d a b)
    ∧ assemble ⟨.FSUB, some ms, [.r d, .r a, .r b]⟩ = some (.fsub ms d a b)
    ∧ assemble ⟨.FMUL, some ms, [.r d, .r a, .r b]⟩ = some (.fmul ms d a b)
    ∧ assemble ⟨.FSQR, some ms, [.r d, .r a]⟩ = some (.fsqr ms d a)
    ∧ assemble ⟨.FNEG, some ms, [.r d, .r a]⟩ = some (.fneg ms d a)
    ∧ assemble ⟨.FRED, some ms, [.r d, .r a]⟩ = some (.fred ms d a)
    ∧ assemble ⟨.FINV, some ms, [.r d, .r a]⟩ = some (.finv ms d a)
    ∧ assemble ⟨.FMOV, none, [.r d, .r a]⟩ = some (.fmov d a) := by
  cases ms <;> refine ⟨?_, ?_, ?_, ?_, ?_, ?_, ?_, ?_⟩ <;>
    simp [assemble, AsmLine.wellFormed, AsmOperand.fits, Op.roles, Roles.written, Op.takesSuffix,
      Op.isField, AsmLine.ms]

/-- The lines of the point commands. -/
theorem assemble_point_commands (d a b : PReg) (e f : FReg) :
    assemble ⟨.PADD, none, [.p d, .p a, .p b]⟩ = some (.padd d a b)
    ∧ assemble ⟨.PMUL, none, [.p d, .p a, .r e]⟩ = some (.pmul d a e)
    ∧ assemble ⟨.PLDG, none, [.p d]⟩ = some (.pldg d)
    ∧ assemble ⟨.PSETI, none, [.p d]⟩ = some (.pseti d)
    ∧ assemble ⟨.PMOV, none, [.p d, .p a]⟩ = some (.pmov d a)
    ∧ assemble ⟨.PSET, none, [.p d, .r e, .r f]⟩ = some (.pset d e f)
    ∧ assemble ⟨.PGETX, none, [.r e, .p a]⟩ = some (.pgetx e a)
    ∧ assemble ⟨.PGETY, none, [.r e, .p a]⟩ = some (.pgety e a) := by
  refine ⟨?_, ?_, ?_, ?_, ?_, ?_, ?_, ?_⟩ <;>
    simp [assemble, AsmLine.wellFormed, AsmOperand.fits, Op.roles, Roles.written, Op.takesSuffix]

/-- No suffix means `.P` (30_encoding.md R90). -/
theorem assemble_without_suffix {op : Op} (h : op.roles.msFree = true) (ops : List AsmOperand) :
    assemble ⟨op, none, ops⟩ = assemble ⟨op, some .p, ops⟩ := by
  have hwf : AsmLine.wellFormed ⟨op, none, ops⟩ = AsmLine.wellFormed ⟨op, some .p, ops⟩ := by
    simp only [AsmLine.wellFormed, Op.takesSuffix_of_msFree h]
  unfold assemble
  rw [hwf]
  rfl

/-- Settles O6: the lines taken, then the lines refused, each for the check it fails. -/
theorem assemblerTakesCommandsAndRefusesBadLines :
    Obligations.AssemblerTakesCommandsAndRefusesBadLines := by
  refine ⟨assemble_field_commands, assemble_point_commands,
    fun op ops h => assemble_without_suffix h ops, fun op ops h => assemble_of_bad_suffix h,
    fun l n hn h => assemble_of_out_of_range hn (decide_eq_false (Nat.not_lt.mpr h)),
    fun l n hn h => assemble_of_out_of_range hn (decide_eq_false (Nat.not_lt.mpr h)),
    fun l i h => ?_⟩
  obtain ⟨-, -, hroles⟩ := l.wellFormed_iff.mp (wellFormed_of_assemble h)
  exact hroles

/-- Settles O5: the lines and their words, then the words and their commands, then the ILLEGAL
words. -/
theorem encodingExamples : Obligations.EncodingExamples := by
  constructor <;> decide

end Sys2Proof
end

section
/-! PROOF. A field command's completion, and the pseudo-instructions of 30_encoding.md R91. -/

namespace Sys2Proof.Machine

/-! ### Residues as register values -/

theorem toVal_toNat_of_lt {m : Val} {n : Nat} (h : n < m.toNat) : (toVal n).toNat = n :=
  Nat.mod_eq_of_lt (h.trans m.isLt)

/-- The residue modulo the value of a register is a register value (00_scope.md R9). -/
theorem toVal_residue_toNat {m : Val} (hm : 2 ≤ m.toNat) (z : Int) :
    ((toVal (residue z m.toNat)).toNat : Int) = z % m.toNat := by
  have hnonneg : 0 ≤ z % (m.toNat : Int) := Int.emod_nonneg z (by omega)
  have hlt : z % (m.toNat : Int) < m.toNat := Int.emod_lt_of_pos z (by omega)
  have hfits : residue z m.toNat < m.toNat := (Int.toNat_lt hnonneg).mpr hlt
  rw [toVal_toNat_of_lt hfits, residue, Int.toNat_of_nonneg hnonneg]

theorem subMod_toNat {m : Val} (hm : 2 ≤ m.toNat) (a b : Val) :
    ((subMod m a b).toNat : Int) = ((a.toNat : Int) - b.toNat) % m.toNat :=
  toVal_residue_toNat hm _

/-- Z of a field result: whether its value is the number 0 (40_field.md R105). -/
theorem beq_zero_iff (v : Val) : (v == 0) = true ↔ (v.toNat : Int) = 0 := by
  rw [beq_iff_eq, ← BitVec.toNat_inj, Int.natCast_eq_zero, BitVec.ofNat_eq_ofNat,
    BitVec.toNat_zero]

/-! ### A completion -/

/-- What every completion does besides its destination and flags (20_memory.md R66). -/
theorem State.complete_frame (s : State) (r : Result) : CompletionFrame s (s.complete r) := by
  rw [State.complete_eq]
  constructor <;> rfl

theorem exec_of_inFlight {s : State} {c : Instr} {snap : Snapshot} {work : MulWork}
    (h : InFlight s c snap work) :
    exec c s = .next (s.complete (Inflight.result ⟨c, snap, work⟩)) :=
  exec_of_sequencer h.1 h.2

/-- A command whose result is a field value completes with it (40_field.md R105). -/
theorem fieldDone_of_inFlight {s : State} {c : Instr} {snap : Snapshot} {work : MulWork}
    {d : FReg} {v : Val} {n : Int} (h : InFlight s c snap work)
    (hr : Inflight.result ⟨c, snap, work⟩ = fieldResult d v) (hv : (v.toNat : Int) = n) :
    FieldDone s (exec c s) d n false false := by
  rw [exec_of_inFlight h, hr]
  refine ⟨_, rfl, ?_, fun j hj => ?_, fun j => rfl, ?_, rfl, rfl, s.complete_frame _⟩
  · rw [← hv]
    exact congrArg (fun u : Val => (u.toNat : Int)) (s.setX_x_self d v)
  · exact s.setX_x_of_ne v hj
  · rw [← hv]
    exact beq_zero_iff v

/-- FSUB completes with the difference modulo the sampled modulus (40_field.md R112). -/
theorem fieldDone_fsub {ms : ModSel} {d a b : FReg} {s : State} {snap : Snapshot}
    {work : MulWork} (h : InFlight s (.fsub ms d a b) snap work) (hm : 2 ≤ snap.modulus.toNat) :
    FieldDone s (exec (.fsub ms d a b) s) d
      (((snap.xa.toNat : Int) - snap.xb.toNat) % snap.modulus.toNat) false false :=
  fieldDone_of_inFlight h rfl (subMod_toNat hm _ _)

/-- The difference of two numbers leaves 0 modulo m exactly when they are congruent. -/
theorem sub_emod_eq_zero_iff (a b m : Nat) : ((a : Int) - b) % m = 0 ↔ a ≡ b [MOD m] := by
  rw [← Int.natCast_modEq_iff, Int.modEq_comm, Int.modEq_iff_dvd, Int.dvd_iff_emod_eq_zero]

/-- Settles O7: FCLR and FEQ are FSUB, whose difference is 0 exactly when its operands are
congruent. -/
theorem pseudoInstructions : Obligations.PseudoInstructions := by
  refine ⟨fun d a => rfl, fun ms d => rfl, fun ms d a b => rfl, fun ms d s => rfl,
    fun ms d s snap work h hx hm => ?_, fun ms d a b s snap work h hm => ?_,
    fun ms d s hidle hm => ?_⟩
  · have hdone := fieldDone_fsub h hm
    rwa [hx, sub_self, Int.zero_emod] at hdone
  · obtain ⟨t, ht, hd, -, -, hz, -⟩ := fieldDone_fsub h hm
    exact ⟨t, ht, hz.trans (sub_emod_eq_zero_iff _ _ _), hd⟩
  · have hlack : s.lacksModulus (.fclr ms d) = true :=
      (s.lacksModulus_iff _).mpr ⟨ms, rfl, hm⟩
    refine ⟨_, exec_of_host _ hidle.1, ?_⟩
    rw [State.issue_of_lacksModulus hidle.2 hlack]
    exact ⟨rfl, rfl⟩

end Sys2Proof.Machine
end

section
/-! PROOF. The loop of 40_field.md R104 computes the modular inverse of R102. -/

namespace Sys2Proof.Machine

/-! ### Residues -/

theorem residue_cast {m : Nat} (hm : 2 ≤ m) (v : Int) : (residue v m : Int) = v % m :=
  Int.toNat_of_nonneg (Int.emod_nonneg v (by omega))

theorem residue_lt {m : Nat} (hm : 2 ≤ m) (v : Int) : residue v m < m := by
  have hlt : v % (m : Int) < m := Int.emod_lt_of_pos v (by omega)
  rwa [← residue_cast hm, Nat.cast_lt] at hlt

theorem residue_modEq {m : Nat} (hm : 2 ≤ m) (v : Int) : (residue v m : Int) ≡ v [ZMOD m] := by
  rw [residue_cast hm]
  exact Int.mod_modEq v m

/-- Congruent numbers have one residue. -/
theorem residue_congr {m : Nat} {v w : Int} (h : v ≡ w [ZMOD m]) : residue v m = residue w m :=
  congrArg Int.toNat h

/-! ### The loop -/

/-- The loop stops when its second remainder is 0. -/
theorem euclid_stop (fuel r0 : Nat) (s0 s1 : Int) : euclid (fuel + 1) r0 0 s0 s1 = (r0, s0) := rfl

/-- One turn of the loop: the next remainder and its coefficient. -/
theorem euclid_turn (fuel r0 : Nat) {r1 : Nat} (s0 s1 : Int) (h : r1 ≠ 0) :
    euclid (fuel + 1) r0 r1 s0 s1
      = euclid fuel r1 (r0 % r1) s1 (s0 - (r0 / r1 : Nat) * s1) := by
  rw [euclid, if_neg h, Nat.mod_eq_sub_div_mul]

/-- The loop ends with the gcd, if its fuel is at least its second remainder. -/
theorem euclid_fst {fuel r0 r1 : Nat} (h : r1 ≤ fuel) (s0 s1 : Int) :
    (euclid fuel r0 r1 s0 s1).1 = Nat.gcd r1 r0 := by
  induction fuel generalizing r0 r1 s0 s1 with
  | zero =>
    obtain rfl : r1 = 0 := Nat.le_zero.mp h
    exact (Nat.gcd_zero_left r0).symm
  | succ fuel ih =>
    rcases eq_or_ne r1 0 with rfl | hne
    · rw [euclid_stop, Nat.gcd_zero_left]
    · have hlt : r0 % r1 < r1 := Nat.mod_lt _ (Nat.pos_of_ne_zero hne)
      rw [euclid_turn _ _ _ _ hne, ih (by omega), ← Nat.gcd_rec]

/-- Each turn keeps `v·s ≡ r (mod m)` for both pairs of coefficient and remainder, so the loop ends
with a coefficient of the gcd. -/
theorem euclid_snd_modEq {m : Nat} {v : Int} (fuel : Nat) {r0 r1 : Nat} {s0 s1 : Int}
    (h0 : v * s0 ≡ r0 [ZMOD m]) (h1 : v * s1 ≡ r1 [ZMOD m]) :
    v * (euclid fuel r0 r1 s0 s1).2 ≡ (euclid fuel r0 r1 s0 s1).1 [ZMOD m] := by
  induction fuel generalizing r0 r1 s0 s1 with
  | zero => exact h0
  | succ fuel ih =>
    rcases eq_or_ne r1 0 with rfl | hne
    · exact h0
    · rw [euclid_turn _ _ _ _ hne]
      refine ih h1 ?_
      calc v * (s0 - (r0 / r1 : Nat) * s1)
        _ = v * s0 - v * s1 * (r0 / r1 : Nat) := by ring
        _ ≡ r0 - r1 * (r0 / r1 : Nat) [ZMOD m] := h0.sub (h1.mul_right _)
        _ = (r0 % r1 : Nat) := by rw [Int.natCast_mod, Int.emod_def, Int.natCast_div]

/-! ### The inverse -/

/-- The coefficient of `v` with which the loop of `invMod` ends. -/
def bezout (m : Nat) (v : Int) : Int := (euclid m m (residue v m) 0 1).2

theorem invMod_eq {m : Nat} (hm : 2 ≤ m) (v : Int) :
    invMod m v = if Nat.gcd (residue v m) m = 1 then some (residue (bezout m v) m) else none := by
  have hgcd : (euclid m m (residue v m) 0 1).1 = _ := euclid_fst (residue_lt hm v).le 0 1
  simp only [invMod, bezout, hgcd]

theorem mul_bezout_modEq {m : Nat} (hm : 2 ≤ m) (v : Int) :
    v * bezout m v ≡ Nat.gcd (residue v m) m [ZMOD m] := by
  rw [← euclid_fst (residue_lt hm v).le 0 1]
  refine euclid_snd_modEq m ?_ ?_
  · rw [mul_zero]
    exact (Int.modEq_zero_iff_dvd.mpr dvd_rfl).symm
  · rw [mul_one]
    exact (residue_modEq hm v).symm

theorem invMod_eq_none_iff {m : Nat} (hm : 2 ≤ m) (v : Int) :
    invMod m v = none ↔ Nat.gcd (residue v m) m ≠ 1 := by
  simp [invMod_eq hm]

/-- What the algorithm gives is a residue, and an inverse of `v` (40_field.md R102). -/
theorem of_invMod_eq_some {m u : Nat} {v : Int} (hm : 2 ≤ m) (h : invMod m v = some u) :
    u < m ∧ v * u ≡ 1 [ZMOD m] := by
  rw [invMod_eq hm, Option.ite_none_right_eq_some, Option.some.injEq] at h
  obtain ⟨hgcd, rfl⟩ := h
  refine ⟨residue_lt hm _, ((residue_modEq hm _).mul_left v).trans ?_⟩
  simpa [hgcd] using mul_bezout_modEq hm v

/-- Two inverses of one number are congruent. -/
theorem inverse_modEq {m v u w : Int} (hu : v * u ≡ 1 [ZMOD m]) (hw : v * w ≡ 1 [ZMOD m]) :
    u ≡ w [ZMOD m] := calc
  u = u * 1 := (mul_one u).symm
  _ ≡ u * (v * w) [ZMOD m] := hw.symm.mul_left u
  _ = v * u * w := by ring
  _ ≡ 1 * w [ZMOD m] := hu.mul_right w
  _ = w := one_mul w

/-- A number that is 1 modulo m has remainder 1, for m ≥ 2. -/
theorem modEq_one_iff {m : Nat} (hm : 2 ≤ m) (z : Int) : z ≡ 1 [ZMOD m] ↔ z % m = 1 := by
  rw [Int.ModEq, Int.emod_eq_of_lt (by omega : (0 : Int) ≤ 1) (by omega : (1 : Int) < m)]

theorem pos_of_mul_emod_eq_one {v m : Int} {u : Nat} (h : v * u % m = 1) : 1 ≤ u := by
  refine Nat.one_le_iff_ne_zero.mpr fun hu => ?_
  simp [hu] at h

/-- A residue modulo a prime is coprime to it exactly when it is not 0. -/
theorem gcd_residue_ne_one_iff {m : Nat} (hp : m.Prime) (v : Int) :
    Nat.gcd (residue v m) m ≠ 1 ↔ v % m = 0 := by
  rw [Nat.gcd_comm, ← residue_cast hp.two_le, Nat.cast_eq_zero, ne_eq,
    ← Nat.coprime_iff_gcd_eq_one, hp.coprime_iff_not_dvd, not_not]
  exact ⟨(Nat.eq_zero_of_dvd_of_lt · (residue_lt hp.two_le v)), fun h => h ▸ dvd_zero m⟩

/-- Settles O24: the loop ends with the gcd and a coefficient of it, and inverses are unique. -/
theorem euclidComputesTheModularInverse : Obligations.EuclidComputesTheModularInverse := by
  refine fun m v hm => ⟨fun hgcd => ?_, (invMod_eq_none_iff hm v).mpr,
    fun hp => (invMod_eq_none_iff hm v).trans (gcd_residue_ne_one_iff hp v)⟩
  obtain ⟨u, hu⟩ := Option.ne_none_iff_exists'.mp fun h => (invMod_eq_none_iff hm v).mp h hgcd
  obtain ⟨hlt, hinv⟩ := of_invMod_eq_some hm hu
  have hrem : v * u % m = 1 := (modEq_one_iff hm _).mp hinv
  refine ⟨u, hu, pos_of_mul_emod_eq_one hrem, by omega, hrem, fun w _ hle hw => ?_⟩
  have hcong : w ≡ u [MOD m] :=
    Int.natCast_modEq_iff.mp (inverse_modEq ((modEq_one_iff hm _).mpr hw) hinv)
  exact hcong.eq_of_lt_of_lt (by omega) hlt

end Sys2Proof.Machine
end

section
/-! PROOF. A field command's result depends on its operands only modulo M, and is below M
(40_field.md R103). -/

namespace Sys2Proof.Machine

/-! ### Operands first reduced -/

/-- The sampled operands first reduced modulo the sampled modulus (40_field.md R103). -/
def Snapshot.reduced (snap : Snapshot) : Snapshot :=
  { snap with
    xa := BitVec.ofNat 512 (snap.xa.toNat % snap.modulus.toNat)
    xb := BitVec.ofNat 512 (snap.xb.toNat % snap.modulus.toNat) }

section Reduced
variable {snap : Snapshot} (hm : 2 ≤ snap.modulus.toNat)
include hm

theorem ofNat_mod_modEq (v : Val) :
    ((BitVec.ofNat 512 (v.toNat % snap.modulus.toNat)).toNat : Int)
      ≡ v.toNat [ZMOD snap.modulus.toNat] := by
  have hlt : v.toNat % snap.modulus.toNat < snap.modulus.toNat := Nat.mod_lt _ (by omega)
  rw [← toVal, toVal_toNat_of_lt hlt, Int.natCast_modEq_iff]
  exact Nat.mod_modEq _ _

theorem Snapshot.reduced_xa_modEq :
    (snap.reduced.xa.toNat : Int) ≡ snap.xa.toNat [ZMOD snap.modulus.toNat] :=
  ofNat_mod_modEq hm _

theorem Snapshot.reduced_xb_modEq :
    (snap.reduced.xb.toNat : Int) ≡ snap.xb.toNat [ZMOD snap.modulus.toNat] :=
  ofNat_mod_modEq hm _

end Reduced

/-! ### The arithmetic modulo m -/

section Congr
variable {m a b a' b' : Val}

theorem addMod_congr (ha : (a.toNat : Int) ≡ a'.toNat [ZMOD m.toNat])
    (hb : (b.toNat : Int) ≡ b'.toNat [ZMOD m.toNat]) : addMod m a b = addMod m a' b' :=
  congrArg toVal (residue_congr (ha.add hb))

theorem subMod_congr (ha : (a.toNat : Int) ≡ a'.toNat [ZMOD m.toNat])
    (hb : (b.toNat : Int) ≡ b'.toNat [ZMOD m.toNat]) : subMod m a b = subMod m a' b' :=
  congrArg toVal (residue_congr (ha.sub hb))

theorem mulMod_congr (ha : (a.toNat : Int) ≡ a'.toNat [ZMOD m.toNat])
    (hb : (b.toNat : Int) ≡ b'.toNat [ZMOD m.toNat]) : mulMod m a b = mulMod m a' b' :=
  congrArg toVal (residue_congr (ha.mul hb))

theorem negMod_congr (ha : (a.toNat : Int) ≡ a'.toNat [ZMOD m.toNat]) :
    negMod m a = negMod m a' :=
  congrArg toVal (residue_congr (Int.ModEq.rfl.sub ha))

theorem redMod_congr (ha : (a.toNat : Int) ≡ a'.toNat [ZMOD m.toNat]) :
    redMod m a = redMod m a' :=
  congrArg toVal (residue_congr ha)

theorem invVal_congr (ha : (a.toNat : Int) ≡ a'.toNat [ZMOD m.toNat]) :
    invVal m a = invVal m a' := by
  rw [invVal, invMod, residue_congr ha]
  rfl

end Congr

theorem toVal_residue_lt {m : Val} (hm : 2 ≤ m.toNat) (z : Int) :
    (toVal (residue z m.toNat)).toNat < m.toNat := by
  rw [toVal_toNat_of_lt (residue_lt hm z)]
  exact residue_lt hm z

theorem invVal_lt {m a u : Val} (hm : 2 ≤ m.toNat) (h : invVal m a = some u) :
    u.toNat < m.toNat := by
  obtain ⟨n, hn, rfl⟩ := Option.map_eq_some_iff.mp h
  obtain ⟨hlt, -⟩ := of_invMod_eq_some hm hn
  rwa [toVal_toNat_of_lt hlt]

/-- FINV writes a value below M: the inverse, or 0 where there is none (40_field.md R117). -/
theorem inverseResult_lt {m : Val} (hm : 2 ≤ m.toNat) (d : FReg) (a : Val) :
    ∃ v, (inverseResult d (invVal m a)).dest = .field d v ∧ v.toNat < m.toNat := by
  rcases hinv : invVal m a with _ | u
  · refine ⟨0, rfl, ?_⟩
    rw [BitVec.ofNat_eq_ofNat, BitVec.toNat_zero]
    omega
  · exact ⟨u, rfl, invVal_lt hm hinv⟩

/-! ### The results -/

/-- The field commands that have a modulus, with one destination (40_field.md R111 to R117). -/
def modularCommands (ms : ModSel) (d a b : FReg) : List Instr :=
  [.fadd ms d a b, .fsub ms d a b, .fmul ms d a b, .fsqr ms d a, .fneg ms d a, .fred ms d a,
    .finv ms d a]

section Results
variable {ms : ModSel} {d a b : FReg} {c : Instr} (hc : c ∈ modularCommands ms d a b)
  {snap : Snapshot} (hm : 2 ≤ snap.modulus.toNat) (work : MulWork)
include hc hm

/-- Reducing the operands first changes no result. -/
theorem result_reduced :
    Inflight.result ⟨c, snap.reduced, work⟩ = Inflight.result ⟨c, snap, work⟩ := by
  have ha := Snapshot.reduced_xa_modEq hm
  have hb := Snapshot.reduced_xb_modEq hm
  simp only [modularCommands, List.mem_cons, List.not_mem_nil, or_false] at hc
  rcases hc with rfl | rfl | rfl | rfl | rfl | rfl | rfl
  · exact congrArg (fieldResult d) (addMod_congr ha hb)
  · exact congrArg (fieldResult d) (subMod_congr ha hb)
  · exact congrArg (fieldResult d) (mulMod_congr ha hb)
  · exact congrArg (fieldResult d) (mulMod_congr ha ha)
  · exact congrArg (fieldResult d) (negMod_congr ha)
  · exact congrArg (fieldResult d) (redMod_congr ha)
  · exact congrArg (inverseResult d) (invVal_congr ha)

/-- The result is a value below M for the command's destination. -/
theorem result_lt :
    ∃ v, (Inflight.result ⟨c, snap, work⟩).dest = .field d v ∧ v.toNat < snap.modulus.toNat := by
  simp only [modularCommands, List.mem_cons, List.not_mem_nil, or_false] at hc
  rcases hc with rfl | rfl | rfl | rfl | rfl | rfl | rfl
  · exact ⟨_, rfl, toVal_residue_lt hm _⟩
  · exact ⟨_, rfl, toVal_residue_lt hm _⟩
  · exact ⟨_, rfl, toVal_residue_lt hm _⟩
  · exact ⟨_, rfl, toVal_residue_lt hm _⟩
  · exact ⟨_, rfl, toVal_residue_lt hm _⟩
  · exact ⟨_, rfl, toVal_residue_lt hm _⟩
  · exact inverseResult_lt hm d snap.xa

end Results

/-! ### The completion -/

/-- A completion does not read the record: its result is what was made of it. -/
theorem State.complete_with_inflight (s : State) (f : Option Inflight) (r : Result) :
    ({ s with inflight := f } : State).complete r = s.complete r := by
  rw [State.complete_eq, State.complete_eq]
  cases r.dest <;> rfl

/-- Another record in flight leaves the turn with the sequencer. -/
theorem InFlight.with_record {s : State} {c : Instr} {snap : Snapshot} {work : MulWork}
    (h : InFlight s c snap work) (snap' : Snapshot) :
    InFlight { s with inflight := some ⟨c, snap', work⟩ } c snap' work := by
  obtain ⟨hturn, hrec⟩ := h
  refine ⟨?_, rfl⟩
  rw [← hturn]
  simp [State.turn, State.busy, hrec]

/-- A completion with a field destination writes its value there. -/
theorem State.complete_x_of_dest {s : State} {r : Result} {d : FReg} {v : Val}
    (h : r.dest = .field d v) : (s.complete r).x d = v := by
  rw [State.complete, h]
  exact s.setX_x_self d v

/-- Settles O23: the residue of the result depends on the operands only modulo M. -/
theorem unreducedOperandsGiveTheReducedResult :
    Obligations.UnreducedOperandsGiveTheReducedResult := by
  intro ms d a b c hc s snap work hfly hm
  constructor
  · obtain ⟨v, hdest, hlt⟩ := result_lt hc hm work
    exact ⟨_, exec_of_inFlight hfly, (State.complete_x_of_dest hdest).symm ▸ hlt⟩
  · calc exec c s
      _ = .next (s.complete (Inflight.result ⟨c, snap, work⟩)) := exec_of_inFlight hfly
      _ = .next (({ s with inflight := some ⟨c, snap.reduced, work⟩ } : State).complete
            (Inflight.result ⟨c, snap.reduced, work⟩)) := by
        rw [result_reduced hc hm]
        exact congrArg Host.Outcome.next (s.complete_with_inflight _ _).symm
      _ = exec c { s with inflight := some ⟨c, snap.reduced, work⟩ } :=
        (exec_of_inFlight (hfly.with_record snap.reduced)).symm

end Sys2Proof.Machine
end

section
/-! PROOF. The group law on the raw stored coordinates and its symmetry (41_point.md R132 to R137),
and the multiples by 0, by 1 and of the identity (41_point.md R141). -/

namespace Sys2Proof.Machine

/-! ### The inverse algorithm, given an inverse -/

theorem residue_of_lt {m n : Nat} (h : n < m) : residue n m = n := by
  rw [residue, ← Int.natCast_mod, Nat.mod_eq_of_lt h, Int.toNat_natCast]

/-- A residue with an inverse is coprime to the modulus. -/
theorem gcd_residue_of_modEq {m : Nat} (hm : 2 ≤ m) {v i : Int} (h : v * i ≡ 1 [ZMOD m]) :
    Nat.gcd (residue v m) m = 1 :=
  Nat.coprime_of_mul_modEq_one (residue i m) <| Int.natCast_modEq_iff.mp <| by
    push_cast
    exact ((residue_modEq hm v).mul (residue_modEq hm i)).trans h

/-- If `v` has an inverse then the algorithm finds its residue (40_field.md R102). -/
theorem invMod_eq_some_of_modEq {m : Nat} (hm : 2 ≤ m) {v i : Int} (h : v * i ≡ 1 [ZMOD m]) :
    invMod m v = some (residue i m) := by
  obtain ⟨u, hu⟩ := Option.ne_none_iff_exists'.mp fun hn =>
    (invMod_eq_none_iff hm v).mp hn (gcd_residue_of_modEq hm h)
  obtain ⟨hlt, hinv⟩ := of_invMod_eq_some hm hu
  have hcong : residue i m ≡ u [MOD m] :=
    Int.natCast_modEq_iff.mp ((residue_modEq hm i).trans (inverse_modEq h hinv))
  rw [hu, hcong.eq_of_lt_of_lt (residue_lt hm i) hlt]

/-- The inverse of `-v` is the residue of `-i`, where `i` is the inverse of `v`. -/
theorem invMod_neg_of_eq_some {m i : Nat} {v : Int} (hm : 2 ≤ m) (h : invMod m v = some i) :
    invMod m (-v) = some (residue (-i) m) := by
  obtain ⟨-, hinv⟩ := of_invMod_eq_some hm h
  exact invMod_eq_some_of_modEq hm ((neg_mul_neg v i).symm ▸ hinv)

theorem invMod_neg_of_eq_none {m : Nat} {v : Int} (hm : 2 ≤ m) (h : invMod m v = none) :
    invMod m (-v) = none := by
  refine Option.eq_none_iff_forall_ne_some.mpr fun i hi => ?_
  have hv := invMod_neg_of_eq_some hm hi
  rw [neg_neg, h] at hv
  exact nomatch hv

/-! ### The slope and the third point -/

/-- The numerator and denominator of R132, by whether the points are equal as stored (R135). -/
theorem chordOrTangent_eq {a : Val} {u v : Point} {num den : Int}
    (h : if u.x = v.x ∧ u.y = v.y then
        num = 3 * (u.x.toNat : Int) * u.x.toNat + a.toNat ∧ den = 2 * (u.y.toNat : Int)
      else num = (v.y.toNat : Int) - u.y.toNat ∧ den = (v.x.toNat : Int) - u.x.toNat) :
    chordOrTangent a u v = (num, den) := by
  unfold chordOrTangent
  split_ifs at h ⊢
  · obtain ⟨rfl, rfl⟩ := h
    rfl
  · obtain ⟨rfl, rfl⟩ := h
    rfl

section Chord
variable {u v : Point} (hne : ¬ (u.x = v.x ∧ u.y = v.y))
include hne

theorem chordOrTangent_of_ne (a : Val) :
    chordOrTangent a u v = ((v.y.toNat : Int) - u.y.toNat, (v.x.toNat : Int) - u.x.toNat) :=
  if_neg hne

/-- The chord taken from the other end has both signs changed. -/
theorem chordOrTangent_swap (a : Val) :
    chordOrTangent a v u = (-(chordOrTangent a u v).1, -(chordOrTangent a u v).2) := by
  have hne' : ¬ (v.x = u.x ∧ v.y = u.y) := fun ⟨hx, hy⟩ => hne ⟨hx.symm, hy.symm⟩
  rw [chordOrTangent_of_ne hne, chordOrTangent_of_ne hne', neg_sub, neg_sub]

end Chord

/-- Numerator and denominator with both signs changed give the same slope. -/
theorem residue_neg_mul_neg {m : Nat} (hm : 2 ≤ m) (num i : Int) :
    residue (-num * residue (-i) m) m = residue (num * i) m := by
  refine residue_congr (((residue_modEq hm (-i)).mul_left (-num)).trans ?_)
  rw [neg_mul_neg]

/-- The slope times its denominator is its numerator. -/
theorem residue_mul_den_modEq {m : Nat} (hm : 2 ≤ m) (num : Int) {den i : Int}
    (hi : den * i ≡ 1 [ZMOD m]) : residue (num * i) m * den ≡ num [ZMOD m] := calc
  residue (num * i) m * den
  _ ≡ num * i * den [ZMOD m] := (residue_modEq hm _).mul_right den
  _ = num * (den * i) := by ring
  _ ≡ num * 1 [ZMOD m] := hi.mul_left num
  _ = num := mul_one num

/-- The third point is the same from either end of a chord: `lam·(x2 - x1) ≡ y2 - y1`, so the two
forms of y3 agree (41_point.md R137). -/
theorem thirdPoint_swap {p : Nat} {lam : Int} {u v : Point}
    (hchord : lam * ((v.x.toNat : Int) - u.x.toNat) ≡ (v.y.toNat : Int) - u.y.toNat [ZMOD p]) :
    thirdPoint p lam u v = thirdPoint p lam v u := by
  have hy (x3 : Int) : lam * ((u.x.toNat : Int) - x3) - u.y.toNat
      ≡ lam * ((v.x.toNat : Int) - x3) - v.y.toNat [ZMOD p] := calc
    lam * ((u.x.toNat : Int) - x3) - u.y.toNat
    _ = lam * ((v.x.toNat : Int) - x3) - u.y.toNat
          - lam * ((v.x.toNat : Int) - u.x.toNat) := by ring
    _ ≡ lam * ((v.x.toNat : Int) - x3) - u.y.toNat
          - ((v.y.toNat : Int) - u.y.toNat) [ZMOD p] := hchord.sub_left _
    _ = lam * ((v.x.toNat : Int) - x3) - v.y.toNat := by ring
  simp only [thirdPoint, sub_right_comm (lam * lam) (u.x.toNat : Int), residue_congr (hy _)]

/-! ### Point addition -/

theorem Point.identity_eq : Point.identity = ⟨0, 0, true⟩ := by
  simp [Point.identity]

/-- An identity on the left gives the other operand as stored (41_point.md R134). -/
theorem addPoints_of_inf_left {u : Point} (h : u.inf = true) (p a : Val) (v : Point) :
    addPoints p a u v = v :=
  if_pos h

/-- An identity on the right gives the other operand as stored (41_point.md R134). -/
theorem addPoints_of_inf_right {u v : Point} (hu : u.inf = false) (hv : v.inf = true) (p a : Val) :
    addPoints p a u v = u := by
  simp [addPoints, hu, hv]

section Finite
variable {p a : Val} {u v : Point} (hu : u.inf = false) (hv : v.inf = false)
include hu hv

/-- A denominator without an inverse gives the identity, and no error (41_point.md R133). -/
theorem addPoints_of_invMod_eq_none (h : invMod p.toNat (chordOrTangent a u v).2 = none) :
    addPoints p a u v = Point.identity := by
  simp [addPoints, hu, hv, h]

theorem addPoints_of_invMod_eq_some {i : Nat}
    (h : invMod p.toNat (chordOrTangent a u v).2 = some i) :
    addPoints p a u v
      = thirdPoint p.toNat (residue ((chordOrTangent a u v).1 * i) p.toNat) u v := by
  simp [addPoints, hu, hv, h]

end Finite

/-- Settles O25: the inverse algorithm decides between the identity and the third point. -/
theorem groupLaw : Obligations.GroupLaw := by
  refine fun p a u v hp => ⟨fun hu => addPoints_of_inf_left hu p a v,
    fun hv hu => addPoints_of_inf_right hu hv p a, fun hu hv num den hslope => ?_⟩
  have hcoords : chordOrTangent a u v = (num, den) := chordOrTangent_eq hslope
  constructor
  · intro hgcd
    have hinv : invMod p.toNat (chordOrTangent a u v).2 = none := by
      rw [hcoords]
      exact (invMod_eq_none_iff hp den).mpr hgcd
    rw [addPoints_of_invMod_eq_none hu hv hinv, Point.identity_eq]
  · intro i _ hlt hi
    have hinv : invMod p.toNat (chordOrTangent a u v).2 = some i := by
      rw [hcoords, invMod_eq_some_of_modEq hp ((modEq_one_iff hp _).mpr hi)]
      exact congrArg some (residue_of_lt hlt)
    refine ⟨_, _, addPoints_of_invMod_eq_some hu hv hinv, ?_⟩
    rintro lam rfl
    rw [hcoords, residue_cast hp, toVal_toNat_of_lt (residue_lt hp _), residue_cast hp]
    exact ⟨rfl, toVal_residue_toNat hp _⟩

/-- Settles O26: the other order changes the signs of numerator and denominator, so the slope is
the same, and the third point lies on the chord from either end. -/
theorem groupLawIsSymmetric : Obligations.GroupLawIsSymmetric := by
  intro p a u v hp hu hv hne
  have hswap := chordOrTangent_swap hne a
  rcases hinv : invMod p.toNat (chordOrTangent a u v).2 with _ | i
  · have hinv' : invMod p.toNat (chordOrTangent a v u).2 = none := by
      rw [hswap]
      exact invMod_neg_of_eq_none hp hinv
    rw [addPoints_of_invMod_eq_none hu hv hinv, addPoints_of_invMod_eq_none hv hu hinv']
  · have hinv' : invMod p.toNat (chordOrTangent a v u).2 = some (residue (-i) p.toNat) := by
      rw [hswap]
      exact invMod_neg_of_eq_some hp hinv
    obtain ⟨-, hi⟩ := of_invMod_eq_some hp hinv
    have hchord := residue_mul_den_modEq hp (chordOrTangent a u v).1 hi
    rw [chordOrTangent_of_ne hne] at hchord
    rw [addPoints_of_invMod_eq_some hu hv hinv, addPoints_of_invMod_eq_some hv hu hinv', hswap,
      residue_neg_mul_neg hp, chordOrTangent_of_ne hne, thirdPoint_swap hchord]

/-! ### Scalar multiplication -/

/-- With no bit left the loop stops with the accumulator. -/
theorem mulLoop_zero (p a : Val) (fuel : Nat) (acc tmpl : Point) :
    mulLoop p a fuel acc tmpl 0 = acc := by
  cases fuel with
  | zero => rfl
  | succ fuel => exact if_pos rfl

/-- The scalar 1 adds the template once. -/
theorem mulLoop_one (p a : Val) (fuel : Nat) (acc tmpl : Point) :
    mulLoop p a (fuel + 1) acc tmpl 1 = addPoints p a acc tmpl :=
  mulLoop_zero p a fuel _ _

/-- A loop on the identity stays there. -/
theorem mulLoop_identity (p a : Val) (fuel n : Nat) :
    mulLoop p a fuel Point.identity Point.identity n = Point.identity := by
  induction fuel generalizing n with
  | zero => rfl
  | succ fuel ih =>
    have hadd : addPoints p a Point.identity Point.identity = Point.identity :=
      addPoints_of_inf_left rfl p a _
    rw [mulLoop, hadd, ite_self, ih, ite_self]

theorem scalarMultiply_eq (p a : Val) (t0 : Point) (n : Val) :
    scalarMultiply p a t0 n = mulLoop p a 512 Point.identity t0 n.toNat := rfl

/-- Settles O28: the loop on the scalars 0 and 1, and on the identity. -/
theorem scalarZeroOneAndIdentity : Obligations.ScalarZeroOneAndIdentity := by
  intro p a
  rw [← Point.identity_eq]
  refine ⟨fun t0 => ?_, fun t0 => ?_, fun n => ?_⟩
  · rw [scalarMultiply_eq, BitVec.ofNat_eq_ofNat, BitVec.toNat_zero, mulLoop_zero]
  · rw [scalarMultiply_eq, BitVec.ofNat_eq_ofNat, BitVec.toNat_one (by decide), mulLoop_one,
      addPoints_of_inf_left rfl]
  · rw [scalarMultiply_eq, mulLoop_identity]

end Sys2Proof.Machine
end

section
/-! PROOF. The errors of a CMD write, and the two orders of a host access that races the completion
of the command in flight (60_exceptions.md R171 to R182). -/

namespace Sys2Proof.Machine

/-! ### ILLEGAL and MODULUS -/

/-- Settles O11: the ILLEGAL case of `IssueCommand`. -/
theorem illegalWordIsAPreciseError : Obligations.IllegalWordIsAPreciseError := by
  refine ⟨fun s w ⟨hb, hw⟩ hd => ?_, by decide⟩
  rw [step_of_cmd hw, hd, State.issue_of_illegal hb]
  rfl

/-- Settles O10: on the host's turn a command is issued, and `lacksModulus` decides between the
MODULUS error and acceptance. -/
theorem missingModulusIsAPreciseError : Obligations.MissingModulusIsAPreciseError := by
  refine ⟨fun i s ms ⟨ht, hb⟩ hms hlt => ?_, fun i s ⟨ht, hb⟩ hge => ?_, modulusTable,
    rfl, rfl, rfl⟩
  · rw [exec_of_host i ht,
      State.issue_of_lacksModulus hb ((s.lacksModulus_iff i).mpr ⟨ms, hms, hlt⟩)]
    rfl
  · rw [exec_of_host i ht, State.issue_of_accepted hb ((s.lacksModulus_eq_false_iff i).mpr hge)]
    exact ⟨_, rfl, rfl, rfl⟩

/-- Settles O14: either error is `raise` after `acceptWord`, which write CMDLOG, ERR and DONE and
nothing else. -/
theorem errorsArePrecise : Obligations.ErrorsArePrecise := by
  rintro s w code ⟨hb, hw⟩ hfail
  have hraise : ∃ e : ErrCode, e.bits = code
      ∧ step s = .next ((s.acceptWord w).raise e).advance := by
    rcases hfail with ⟨hd, rfl⟩ | ⟨c, ms, hd, hms, hlt, rfl⟩
    · exact ⟨.illegal, rfl, by rw [step_of_cmd hw, hd, State.issue_of_illegal hb]⟩
    · have hm : s.lacksModulus c = true := (s.lacksModulus_iff c).mpr ⟨ms, hms, hlt⟩
      exact ⟨.modulus, rfl, by rw [step_of_cmd hw, hd, State.issue_of_lacksModulus hb hm]⟩
  obtain ⟨e, he, hstep⟩ := hraise
  exact ⟨_, hstep, he, rfl, rfl, hb, by simpa [State.busy] using hb, rfl, rfl, rfl, rfl, rfl, rfl,
    rfl, fun hie => by simp [State.irq, hie]⟩

/-! ### Accesses a race needs -/

/-- A write of the next move, with CORE out of reset. -/
theorem writesWord_withInbox {s : State} (hr : s.rst = false) (off : Offset) (v : Word)
    (rest : List Event) : WritesWord (s.withInbox (.write off v :: rest)) (wordOffset off) v :=
  ⟨hr, off, rest, rfl, rfl⟩

/-- A STATUS write (10_state.md R27). -/
theorem step_of_status {s : State} {v : Word} (h : WritesWord s 0x008 v) :
    step s = .next (s.writeStatus v).advance := by
  obtain ⟨hr, off, rest, hi, ho⟩ := h
  have hbus : s.busWrite off v = s.writeStatus v := by simp [State.busWrite, hr, ho]
  rw [step_of_write hi (.inr (by simp [ho])), hbus]

/-- A write of a live window word while BUSY = 0 (20_memory.md R58). -/
theorem step_of_window {s : State} {r : WindowReg} {k : Nat} {v : Word}
    (h : WritesWindow s r k v) (hb : s.busy = false) :
    step s = .next (s.setWindowReg r (putWord (s.windowReg r) k v)).advance := by
  obtain ⟨hk, hr, off, rest, hi, ho⟩ := h
  have hcmd : wordOffset off ≠ 0x00C := by rw [ho]; exact r.base_add_ne k (by decide)
  rw [step_of_write hi (.inr hcmd), s.busWrite_of_window v hr (hk.trans_le s.width.words_le) ho,
    State.writeWindow_of_idle hk hb]

@[simp] theorem State.setWindowReg_windowReg_self (s : State) (r : WindowReg) (v : Val) :
    (s.setWindowReg r v).windowReg r = v := by
  cases r with
  | cfg c => exact s.setCfgReg_cfgReg_self c v
  | field i => exact s.setX_x_self i v

theorem State.peek_of_status (s : State) {off : Offset} (ho : wordOffset off = 0x008) :
    s.peek off = some s.statusWord := by
  simp [State.peek, ho]

/-- A read of a live window word while BUSY = 1 is unspecified (20_memory.md R60). -/
theorem LiveWindow.peek_of_busy {s : State} {off : Offset} {r : WindowReg} {k : Nat}
    (h : LiveWindow s off r k) (hb : s.busy = true) : s.peek off = none := by
  obtain ⟨hk, ho⟩ := h
  rw [s.peek_of_window (hk.trans_le s.width.words_le) ho, if_neg (Nat.not_le.mpr hk), if_pos hb]

/-- A read of a live window word while BUSY = 0 finds that word of the register. -/
theorem LiveWindow.peek_of_idle {s : State} {off : Offset} {r : WindowReg} {k : Nat}
    (h : LiveWindow s off r k) (hb : s.busy = false) :
    s.peek off = some (wordOf (s.windowReg r) k) := by
  obtain ⟨hk, ho⟩ := h
  rw [s.peek_of_window (hk.trans_le s.width.words_le) ho, if_neg (Nat.not_le.mpr hk), hb]
  rfl

/-- Bit 0 of STATUS is BUSY (10_state.md R27). -/
theorem State.statusWord_getLsbD_zero (s : State) : s.statusWord.getLsbD 0 = s.busy := by
  rw [State.statusWord, BitVec.getLsbD_setWidth, BitVec.getLsbD_append]
  simp

/-- Bit 1 of STATUS is DONE (10_state.md R27). -/
theorem State.statusWord_getLsbD_one (s : State) : s.statusWord.getLsbD 1 = s.status.done := by
  rw [State.statusWord, BitVec.getLsbD_setWidth, BitVec.getLsbD_append, BitVec.getLsbD_append]
  simp

/-- A word offset is a multiple of 4 (20_memory.md R52). -/
theorem wordOffset_mod_four (off : Offset) : wordOffset off % 4 = 0 := by
  rw [wordOffset, BitVec.toNat_and, show 4 = 2 ^ 2 from rfl, Nat.and_mod_two_pow]
  exact Nat.and_zero _

/-- The window an offset lies in, and the word it reaches (20_memory.md R57). -/
theorem wordOffset_of_windowAt {off : Offset} {r : WindowReg} {k : Nat}
    (h : windowAt (wordOffset off) = some (r, k)) : wordOffset off = r.base + 4 * k := by
  obtain ⟨hlow, -, hk⟩ := windowAt_eq_some h
  have hoff := wordOffset_mod_four off
  have hbase : r.base % 4 = 0 := by
    rcases r with c | i
    · cases c <;> rfl
    · simp only [WindowReg.base]
      omega
  omega

/-- An access that reaches no live window word finds a word beyond K, or no window at all. -/
theorem dead_of_not_liveWindow {s : State} {off : Offset} (hwin : ∀ r k, ¬ LiveWindow s off r k)
    {r : WindowReg} {k : Nat} (ho : wordOffset off = r.base + 4 * k) : s.width.words ≤ k :=
  Nat.not_lt.mp fun hk => hwin r k ⟨hk, ho⟩

/-- A write that reaches neither CTRL, STATUS, CMD nor a live window word does nothing
(20_memory.md R55, R56). -/
theorem step_of_inert_write {s : State} {off : Offset} {v : Word} {rest : List Event}
    (hi : s.inbox = .write off v :: rest) (hctrl : wordOffset off ≠ 0x004)
    (hstatus : wordOffset off ≠ 0x008) (hcmd : wordOffset off ≠ 0x00C)
    (hwin : ∀ r k, ¬ LiveWindow s off r k) : step s = .next s.advance := by
  rw [step_of_write hi (.inr hcmd)]
  rcases s.busWrite_cases off v hcmd with ⟨-, e⟩ | ⟨-, ho, -⟩ | ⟨-, ho, -⟩ |
      ⟨r, k, -, ho, -, e⟩ | ⟨-, -, -, -, e⟩
  · rw [e]
  · exact absurd ho hctrl
  · exact absurd ho hstatus
  · rw [e, State.writeWindow_of_dead (dead_of_not_liveWindow hwin ho)]
  · rw [e]

/-! ### What a completion keeps -/

@[simp] theorem State.complete_rst (s : State) (r : Result) : (s.complete r).rst = s.rst :=
  (s.complete_frame r).rst

@[simp] theorem State.complete_width (s : State) (r : Result) : (s.complete r).width = s.width :=
  (s.complete_frame r).width

/-- Which words are live depends on the width only, which a completion keeps. -/
theorem liveWindow_complete_iff {s : State} (res : Result) {off : Offset} {r : WindowReg}
    {k : Nat} :
    LiveWindow (s.complete res) off r k ↔ LiveWindow s off r k := by
  rw [LiveWindow, State.complete_width, LiveWindow]

/-- The moduli are configuration registers, which a completion keeps. -/
theorem State.complete_lacksModulus (s : State) (r : Result) (c : Instr) :
    (s.complete r).lacksModulus c = s.lacksModulus c := by
  have hsel (ms : ModSel) : (s.complete r).sel ms = s.sel ms := by
    cases ms <;> simp only [State.sel, (s.complete_frame r).cfg]
  simp only [State.lacksModulus, hsel]

/-- Completing and setting IE commute: neither reads what the other writes. -/
theorem State.complete_with_ie (s : State) (b : Bool) (r : Result) :
    ({ s with ie := b } : State).complete r = { s.complete r with ie := b } := by
  rw [State.complete_eq, State.complete_eq s]
  cases r.dest <;> rfl

/-- Completing and handing the host a word commute. -/
theorem State.complete_with_rdata (s : State) (w : Word) (r : Result) :
    ({ s with rdata := w } : State).complete r = { s.complete r with rdata := w } := by
  rw [State.complete_eq, State.complete_eq s]
  cases r.dest <;> rfl

/-- Completing does not depend on the moves to come. -/
theorem State.complete_withInbox (s : State) (es : List Event) (r : Result) :
    (s.withInbox es).complete r = (s.complete r).withInbox es := by
  rw [State.complete_eq, State.complete_eq s]
  cases r.dest <;> rfl

/-- A read that reaches neither STATUS nor a live window word finds the same word before and after
the completion: no other offset shows what a completion writes. -/
theorem State.peek_complete {s : State} {off : Offset} (r : Result)
    (hstatus : wordOffset off ≠ 0x008) (hwin : ∀ r k, ¬ LiveWindow s off r k) :
    ∃ w, s.peek off = some w ∧ (s.complete r).peek off = some w := by
  rw [State.complete_eq]
  unfold State.peek
  split
  case h_3 ho => exact absurd ho hstatus
  case h_6 =>
    rcases hw : windowAt (wordOffset off) with _ | ⟨q, k⟩
    · exact ⟨0, rfl, rfl⟩
    · have hdead := dead_of_not_liveWindow hwin (wordOffset_of_windowAt hw)
      exact ⟨0, if_pos hdead, if_pos hdead⟩
  all_goals exact ⟨_, rfl, rfl⟩

/-! ### Runs of one and of two moves -/

theorem reaches_one {s t : State} {es : List Event} {P : State → Prop}
    (h : step (s.withInbox es) = .next t) (hp : P t) : Reaches s es 1 P :=
  ⟨t, run_succ 0 h, hp⟩

theorem run_two {s t u : State} (h : step s = .next t) (h' : step t = .next u) :
    Host.Core.run core 2 s = .next u :=
  (run_succ 1 h).trans (run_succ 0 h')

/-- The sequencer's move as the next one, whatever comes after: the command in flight completes. -/
theorem step_withInbox_sequencer {s : State} {r : Inflight} (hr : s.rst = false)
    (hf : s.inflight = some r) (rest : List Event) :
    step (s.withInbox (.sequencer :: rest)) = .next ((s.complete r.result).withInbox rest) := by
  rw [step_of_completion (s := s.withInbox (.sequencer :: rest)) rfl hr hf,
    State.complete_withInbox]
  rfl

/-! ### The two orders -/

section Race
variable {s : State} {r : Inflight} (hr : s.rst = false) (hf : s.inflight = some r)
include hr hf

/-- The completion comes first, and the access finds CORE idle. -/
theorem reaches_after_completion {e : Event} {t : State} {P : State → Prop}
    (h : step ((s.complete r.result).withInbox [e]) = .next t) (hp : P t) :
    Reaches s [.sequencer, e] 2 P :=
  ⟨t, run_two (step_withInbox_sequencer hr hf [e]) h, hp⟩

/-- An access that commutes with the completion: it takes `s` to `u`, and the completed `s` to the
completed `u`. -/
theorem reachBoth_of_commute {e : Event} {u u' : State} {P : State → Prop}
    (hcommute : u.complete r.result = u')
    (hfirst : step (s.withInbox [e, .sequencer]) = .next (u.withInbox [.sequencer]))
    (hsecond : step ((s.complete r.result).withInbox [e]) = .next (u'.withInbox []))
    (hur : u.rst = false) (huf : u.inflight = some r) (hp : P (u'.withInbox [])) :
    ReachBoth s [e, .sequencer] [.sequencer, e] P :=
  ⟨_, run_two hfirst (hcommute ▸ step_withInbox_sequencer hur huf []),
    run_two (step_withInbox_sequencer hr hf [e]) hsecond, hp⟩

end Race

/-- Settles O34.  Before the completion an access finds the command in flight, after it an idle CORE
with DONE = 1; an access that sees none of what the completion writes, and writes none of it,
commutes with the completion. -/
theorem bothOrdersOfARace : Obligations.BothOrdersOfARace := by
  intro s off hinv hb hr
  obtain ⟨r, hf⟩ := Option.isSome_iff_exists.mp hb
  have hr' : (s.complete r.result).rst = false := (s.complete_rst _).trans hr
  have writes_before (v : Word) := writesWord_withInbox hr off v [.sequencer]
  have writes_after (v : Word) := writesWord_withInbox hr' off v []
  have issues_after (w : Word) (ho : wordOffset off = 0x00C) :
      step ((s.complete r.result).withInbox [.write off w])
        = .next (((s.complete r.result).issue w (decode w)).withInbox []) := by
    rw [step_withInbox_write, if_pos ⟨hr', ho⟩]
  refine ⟨fun w ho => ⟨?_, fun c hd hm => ?_, fun c hd hm => ?_, fun hd => ?_⟩,
    fun q k v hlive => ⟨?_, ?_⟩, fun q k hlive => ⟨?_, ?_⟩, fun ho => ⟨?_, ?_⟩,
    fun v ho => ⟨?_, ?_⟩, fun v ho hv => ⟨?_, ?_⟩, fun v ho hv => ?_, fun hstatus hwin => ?_,
    fun v hctrl hstatus hcmd hwin => ?_⟩
  -- (a) A CMD write: dropped, or one of the three outcomes of an idle `IssueCommand`.
  · exact reaches_one (step_of_dropped_command ⟨hb, w, ho ▸ writes_before w⟩)
      ⟨rfl, rfl, rfl, rfl, rfl⟩
  · have hstep := issues_after w ho
    rw [hd, State.issue_of_accepted rfl ((s.complete_lacksModulus _ c).trans hm)] at hstep
    exact reaches_after_completion hr hf hstep ⟨rfl, rfl, rfl, rfl, rfl⟩
  · have hstep := issues_after w ho
    rw [hd, State.issue_of_lacksModulus rfl ((s.complete_lacksModulus _ c).trans hm)] at hstep
    exact reaches_after_completion hr hf hstep ⟨rfl, rfl, rfl, rfl, rfl⟩
  · have hstep := issues_after w ho
    rw [hd, State.issue_of_illegal rfl] at hstep
    exact reaches_after_completion hr hf hstep ⟨rfl, rfl, rfl, rfl, rfl⟩
  -- (b) A window write: dropped, or lands.
  · obtain ⟨hk, ho⟩ := hlive
    exact reaches_one (step_of_dropped_window ⟨hk, ho ▸ writes_before v⟩ hb)
      ⟨rfl, by cases q <;> rfl⟩
  · obtain ⟨hk, ho⟩ := (liveWindow_complete_iff r.result).mpr hlive
    refine reaches_after_completion hr hf (step_of_window ⟨hk, ho ▸ writes_after v⟩ rfl) ⟨?_, ?_⟩
    · rw [State.advance_windowReg, State.setWindowReg_windowReg_self,
        wordOf_putWord_self _ _ (hk.trans_le (Width.words_le _))]
    · rw [State.advance_status, State.setWindowReg_status]
      rfl
  -- (b) A window read: unspecified, or the register.
  · refine reaches_one (step_withInbox_read s off _) ?_
    rw [State.busRead_of_unspecified hr (hlive.peek_of_busy hb)]
    rfl
  · have hp := ((liveWindow_complete_iff r.result).mpr hlive).peek_of_idle rfl
    exact reaches_after_completion hr hf (step_of_read_peek rfl hr' hp) ⟨rfl, by cases q <;> rfl⟩
  -- (c) A STATUS read.
  · exact reaches_one (step_of_read_peek rfl hr (s.peek_of_status ho))
      ⟨s.statusWord_getLsbD_zero.trans hb, s.statusWord_getLsbD_one.trans (hinv.busyQuiet hb).1⟩
  · exact reaches_after_completion hr hf (step_of_read_peek rfl hr' (State.peek_of_status _ ho))
      ⟨State.statusWord_getLsbD_zero _, State.statusWord_getLsbD_one _⟩
  -- (d) A STATUS write: the completion sets DONE again, or its DONE is cleared.
  · exact ⟨_, run_two (step_of_status (ho ▸ writes_before v))
      (step_withInbox_sequencer (s := s.writeStatus v) hr hf []), rfl, rfl, rfl, rfl⟩
  · exact reaches_after_completion hr hf (step_of_status (ho ▸ writes_after v))
      ⟨rfl, Bool.true_and _, rfl, rfl⟩
  -- (e) A soft reset discards the command in flight, or comes second.
  · exact ⟨_, run_two (step_of_soft_reset (ho ▸ writes_before v) hv)
      (step_of_nothing (.inl ⟨[], rfl⟩) (.inr rfl)), (State.resetCore_isReset _).advance.advance⟩
  · exact reaches_after_completion hr hf (step_of_soft_reset (ho ▸ writes_after v) hv)
      (State.resetCore_isReset _).advance
  -- The accesses that commute with the completion.
  · exact reachBoth_of_commute hr hf (s.complete_with_ie (v.getLsbD 1) r.result)
      (step_of_enable (ho ▸ writes_before v) hv) (step_of_enable (ho ▸ writes_after v) hv) hr hf
      ⟨rfl, rfl, rfl, Bool.and_true _⟩
  · obtain ⟨w, hp, hp'⟩ := State.peek_complete r.result hstatus hwin
    exact reachBoth_of_commute hr hf (s.complete_with_rdata w r.result)
      (step_of_read_peek rfl hr hp) (step_of_read_peek rfl hr' hp') hr hf ⟨rfl, rfl⟩
  · have hwin' : ∀ q k, ¬ LiveWindow (s.complete r.result) off q k :=
      fun q k h => hwin q k ((liveWindow_complete_iff r.result).mp h)
    exact reachBoth_of_commute hr hf (u := s) rfl
      (step_of_inert_write rfl hctrl hstatus hcmd hwin)
      (step_of_inert_write rfl hctrl hstatus hcmd hwin') hr hf ⟨rfl, rfl, rfl⟩

end Sys2Proof.Machine
end

section
/-! PROOF. What a soft reset leaves (70_reset_and_hazards.md R201), from `IsReset`. -/

namespace Sys2Proof.Machine

/-- The seven configuration registers, read as one record (10_state.md R24). -/
theorem IsReset.cfg_eq_zero {t : State} (h : IsReset t) : t.cfg = ⟨0, 0, 0, 0, 0, 0, 0⟩ :=
  (CurveRegs.mk.injEq ..).mpr ⟨h.cfg .P, h.cfg .A, h.cfg .B, h.cfg .M,
    h.cfg .Q, h.cfg .GX, h.cfg .GY⟩

theorem IsReset.statusWord_eq_zero {t : State} (h : IsReset t) : t.statusWord = 0 := by
  rw [State.statusWord, h.werr, h.cmdovf, h.ni, h.id, h.z, h.err, h.done, h.busy]
  rfl

theorem IsReset.ctrlWord_eq_zero {t : State} (h : IsReset t) : t.ctrlWord = 0 := by
  rw [State.ctrlWord_eq, h.ie]
  rfl

/-- Settles O59: a soft reset leaves an `IsReset` state, whose registers read as its fields say; ID
is a function of the width, which the reset keeps. -/
theorem softResetPutsEverythingAtReset : Obligations.SoftResetPutsEverythingAtReset := by
  intro s v hw hv
  have hreset : IsReset s.resetCore.advance := s.resetCore_isReset.advance
  exact ⟨_, step_of_soft_reset hw hv, hreset.field, hreset.point, hreset.cfg_eq_zero,
    hreset.statusWord_eq_zero, hreset.ctrlWord_eq_zero, hreset.cmdlog, hreset.inflight, rfl⟩

end Sys2Proof.Machine
end

section
/-! PROOF. Decoding the word of a command gives the command back (30_encoding.md R81 to R87). -/

namespace Sys2Proof

/-! ### The word of a command -/

/-- The mnemonic of a command (30_encoding.md R86). -/
def Instr.op : Instr → Op
  | .fadd .. => .FADD
  | .fsub .. => .FSUB
  | .fmul .. => .FMUL
  | .fsqr .. => .FSQR
  | .fneg .. => .FNEG
  | .fred .. => .FRED
  | .finv .. => .FINV
  | .fmov .. => .FMOV
  | .padd .. => .PADD
  | .pmul .. => .PMUL
  | .pldg .. => .PLDG
  | .pseti .. => .PSETI
  | .pmov .. => .PMOV
  | .pset .. => .PSET
  | .pgetx .. => .PGETX
  | .pgety .. => .PGETY

theorem Instr.fields_opc (i : Instr) : i.fields.opc = i.op.opc := by
  cases i <;> rfl

theorem Instr.ofWord_encode (i : Instr) : Fields.ofWord (encode i) = i.fields :=
  Laws.ofWord_toWord i.fields

/-- The word of every command passes the checks of 30_encoding.md R82 to R85. -/
theorem Instr.wellFormed_eq_true (i : Instr) : i.wellFormed = true := by
  cases i with
  | fadd => exact Laws.EncodeWellFormed.fadd ..
  | fsub => exact Laws.EncodeWellFormed.fsub ..
  | fmul => exact Laws.EncodeWellFormed.fmul ..
  | fsqr => exact Laws.EncodeWellFormed.fsqr ..
  | fneg => exact Laws.EncodeWellFormed.fneg ..
  | fred => exact Laws.EncodeWellFormed.fred ..
  | finv => exact Laws.EncodeWellFormed.finv ..
  | fmov => exact Laws.EncodeWellFormed.fmov ..
  | padd => exact Laws.EncodeWellFormed.padd ..
  | pmul => exact Laws.EncodeWellFormed.pmul ..
  | pldg => exact Laws.EncodeWellFormed.pldg ..
  | pseti => exact Laws.EncodeWellFormed.pseti ..
  | pmov => exact Laws.EncodeWellFormed.pmov ..
  | pset => exact Laws.EncodeWellFormed.pset ..
  | pgetx => exact Laws.EncodeWellFormed.pgetx ..
  | pgety => exact Laws.EncodeWellFormed.pgety ..

/-! ### The operands of a word, read from its fields -/

@[simp] theorem FReg.toFin_bits (i : FReg) : (FReg.bits i).toFin = i := by
  simp [FReg.bits]

/-- A point index is the low three bits of its operand field. -/
@[simp] theorem PReg.toFin_bits (i : PReg) : ((PReg.bits i).extractLsb' 0 3).toFin = i := by
  apply Fin.ext
  simp [PReg.bits]

/-- The modulus select of MS (30_encoding.md R83). -/
def ModSel.ofBit (v : BitVec 1) : ModSel := if v.getLsbD 0 then .q else .p

@[simp] theorem ModSel.ofBit_bit (ms : ModSel) : ModSel.ofBit ms.bit = ms := by
  cases ms <;> rfl

theorem msOf_encode (i : Instr) : msOf (encode i) = .ofBit i.fields.ms := by
  rw [← i.ofWord_encode]
  simp [msOf, ModSel.ofBit, Fields.ofWord]

theorem fieldD_encode (i : Instr) : fieldD (encode i) = i.fields.d.toFin := by
  rw [← i.ofWord_encode]; rfl
theorem fieldA_encode (i : Instr) : fieldA (encode i) = i.fields.a.toFin := by
  rw [← i.ofWord_encode]; rfl
theorem fieldB_encode (i : Instr) : fieldB (encode i) = i.fields.b.toFin := by
  rw [← i.ofWord_encode]; rfl

/-- A point operand drops the top bit of its field, which its role keeps at 0. -/
theorem extractLsb'_three (w : Word) (n : Nat) :
    w.extractLsb' n 3 = (w.extractLsb' n 4).extractLsb' 0 3 := by
  apply BitVec.eq_of_getLsbD_eq
  intro i hi
  simp [hi, show i < 4 by omega]

theorem pointD_encode (i : Instr) : pointD (encode i) = (i.fields.d.extractLsb' 0 3).toFin := by
  rw [pointD, extractLsb'_three, ← i.ofWord_encode]; rfl
theorem pointA_encode (i : Instr) : pointA (encode i) = (i.fields.a.extractLsb' 0 3).toFin := by
  rw [pointA, extractLsb'_three, ← i.ofWord_encode]; rfl
theorem pointB_encode (i : Instr) : pointB (encode i) = (i.fields.b.extractLsb' 0 3).toFin := by
  rw [pointB, extractLsb'_three, ← i.ofWord_encode]; rfl

/-- The operands of a command are those its word holds. -/
theorem operandsOf_encode (i : Instr) : operandsOf i.op (encode i) = i := by
  cases i <;>
    simp only [operandsOf, Instr.op, msOf_encode, fieldD_encode, fieldA_encode, fieldB_encode,
      pointD_encode, pointA_encode, pointB_encode, Instr.fields, FReg.toFin_bits,
      PReg.toFin_bits, ModSel.ofBit_bit]

/-! ### The row of a word -/

/-- A word whose fields pass the checks selects the row of its opcode (30_encoding.md R87). -/
theorem decode_of_wellFormed {w : Word} {op : Op} (hop : Op.ofOpc (Fields.ofWord w).opc = some op)
    (hwf : (Fields.ofWord w).wellFormed = true) : decode w = some (operandsOf op w) := by
  rcases hfind : opcodeTable.find? (·.selects w) with _ | r
  · have hnone : decode w = none := by rw [decode, hfind]; rfl
    rw [decode_eq_none_iff, hwf] at hnone
    cases hnone
  · have hsel : r.selects w = true := List.find?_some (p := fun r : Row => r.selects w) hfind
    obtain ⟨hopc, -⟩ := (Row.selects_iff (List.mem_of_find?_eq_some hfind) w).mp hsel
    obtain rfl : op = r.op := Option.some.inj (hop.symm.trans hopc)
    rw [decode, hfind]
    rfl

theorem decode_encode (i : Instr) : decode (encode i) = some i := by
  have hop : Op.ofOpc (Fields.ofWord (encode i)).opc = some i.op := by
    rw [i.ofWord_encode, i.fields_opc, Laws.opc_known]
  rw [decode_of_wellFormed hop i.wellFormed_eq_true, operandsOf_encode]

/-- Settles O2: the word of a command selects the row of its opcode, and holds its operands. -/
theorem decodeOfEncodeIsTheCommand : Obligations.DecodeOfEncodeIsTheCommand :=
  fun i => ⟨i.wellFormed_eq_true, decode_encode i⟩

/-- Settles O3: a row's command keeps the bits outside the row's mask and has its pattern inside
(`fields_operandsOf`). -/
theorem encodeOfDecodeIsTheWord : Obligations.EncodeOfDecodeIsTheWord :=
  fun _ _ h => encode_of_decode h

end Sys2Proof
end

section
/-! PROOF. What a command makes of operands that CORE may hold is a value CORE may hold
(00_scope.md R9, 10_state.md R20 to R23). -/

namespace Sys2Proof.Machine

/-! ### Values of at most W bits -/

theorem fits_zero (w : Width) : fits w 0 := by
  rw [fits, BitVec.ofNat_eq_ofNat, BitVec.toNat_zero]
  exact Nat.two_pow_pos _

/-- A value has at most W bits exactly when every bit from W on is 0. -/
theorem fits_iff {w : Width} {v : Val} :
    fits w v ↔ ∀ n, w.bits ≤ n → v.getLsbD n = false := by
  constructor
  · intro h n hn
    exact Nat.testBit_lt_two_pow (h.trans_le (Nat.pow_le_pow_right (by decide) hn))
  · exact fun h => Nat.lt_pow_two_of_testBit _ h

/-- Replacing a word below K leaves a W-bit value (20_memory.md R55, R58). -/
theorem fits_putWord {w : Width} {v : Val} {k : Nat} (hv : fits w v) (hk : k < w.words)
    (word : Word) : fits w (putWord v k word) := by
  rw [fits_iff] at hv ⊢
  intro n hn
  rw [Width.bits_eq] at hn
  by_cases hlt : n < 512
  · rw [putWord_getLsbD _ _ _ _ hlt, if_neg (by omega), hv n (by rwa [Width.bits_eq])]
  · exact BitVec.getLsbD_of_ge _ _ (by omega)

/-- A residue modulo a W-bit modulus is a W-bit value. -/
theorem fits_toVal_residue {w : Width} {m : Val} (hm : 2 ≤ m.toNat) (hfit : fits w m) (z : Int) :
    fits w (toVal (residue z m.toNat)) :=
  (toVal_residue_lt hm z).trans hfit

theorem fits_of_invVal {w : Width} {m a u : Val} (hm : 2 ≤ m.toNat) (hfit : fits w m)
    (h : invVal m a = some u) : fits w u :=
  (invVal_lt hm h).trans hfit

/-! ### Points CORE may hold -/

theorem Point.Ok.identity (w : Width) : Point.identity.Ok w := by
  rw [Point.identity_eq]
  exact ⟨fits_zero w, fits_zero w, fun _ => ⟨rfl, rfl⟩⟩

/-- A finite point needs W-bit coordinates and no more. -/
theorem Point.Ok.finite {w : Width} {x y : Val} (hx : fits w x) (hy : fits w y) :
    Point.Ok w ⟨x, y, false⟩ :=
  ⟨hx, hy, fun h => nomatch h⟩

section Group
variable {w : Width} {p : Val} (hp : 2 ≤ p.toNat) (hfit : fits w p)
include hp hfit

/-- The sum of two points is one of them, the identity, or a finite point with residues for
coordinates (41_point.md R132). -/
theorem addPoints_ok (a : Val) {u v : Point} (hu : u.Ok w) (hv : v.Ok w) :
    (addPoints p a u v).Ok w := by
  rcases hui : u.inf with _ | _
  · rcases hvi : v.inf with _ | _
    · rcases hinv : invMod p.toNat (chordOrTangent a u v).2 with _ | i
      · rw [addPoints_of_invMod_eq_none hui hvi hinv]
        exact .identity w
      · rw [addPoints_of_invMod_eq_some hui hvi hinv]
        exact .finite (fits_toVal_residue hp hfit _) (fits_toVal_residue hp hfit _)
    · rwa [addPoints_of_inf_right hui hvi]
  · rwa [addPoints_of_inf_left hui]

theorem mulLoop_ok (a : Val) (fuel : Nat) {acc tmpl : Point} (hacc : acc.Ok w)
    (htmpl : tmpl.Ok w) (n : Nat) : (mulLoop p a fuel acc tmpl n).Ok w := by
  induction fuel generalizing acc tmpl n with
  | zero => exact hacc
  | succ fuel ih =>
    rw [mulLoop]
    split_ifs
    · exact hacc
    · exact ih (addPoints_ok hp hfit a hacc htmpl) (addPoints_ok hp hfit a htmpl htmpl) _
    · exact ih hacc (addPoints_ok hp hfit a htmpl htmpl) _

theorem scalarMultiply_ok (a : Val) {t0 : Point} (ht0 : t0.Ok w) (n : Val) :
    (scalarMultiply p a t0 n).Ok w :=
  mulLoop_ok hp hfit a 512 (.identity w) ht0 n.toNat

end Group

/-! ### The results of the commands -/

/-- The value for the destination is one CORE may hold. -/
def Dest.Ok (w : Width) : Dest → Prop
  | .field _ v => fits w v
  | .point _ u => u.Ok w

theorem inverseResult_ok {w : Width} {m : Val} (hm : 2 ≤ m.toNat) (hfit : fits w m) (d : FReg)
    (a : Val) : (inverseResult d (invVal m a)).dest.Ok w := by
  rcases hinv : invVal m a with _ | u
  · exact fits_zero w
  · exact fits_of_invVal hm hfit hinv

theorem coordResult_ok {w : Width} {v : Val} (h : fits w v) (d : FReg) (src : Point) :
    (coordResult d src v).dest.Ok w := by
  change fits w (if src.inf then 0 else v)
  split_ifs
  · exact fits_zero w
  · exact h

/-- The selected modulus is a configuration register (40_field.md R119). -/
theorem State.Inv.selFits {s : State} (h : s.Inv) (ms : ModSel) : fits s.width (s.sel ms) := by
  cases ms with
  | p => exact h.cfgFits .P
  | q => exact h.cfgFits .Q

/-- A command accepted in a good state makes a value CORE may hold of what it samples. -/
theorem result_ok {s : State} (h : s.Inv) {c : Instr} (hm : s.lacksModulus c = false) :
    (s.record c).result.dest.Ok s.width := by
  have hmod := (s.lacksModulus_eq_false_iff c).mp hm
  cases c with
  | fadd ms d a b | fsub ms d a b | fmul ms d a b =>
    exact fits_toVal_residue (hmod ms rfl) (h.selFits ms) _
  | fsqr ms d a | fneg ms d a | fred ms d a =>
    exact fits_toVal_residue (hmod ms rfl) (h.selFits ms) _
  | finv ms d a => exact inverseResult_ok (hmod ms rfl) (h.selFits ms) d _
  | fmov d a => exact h.fieldFits a
  | padd d a b => exact addPoints_ok (hmod .p rfl) (h.cfgFits .P) _ (h.pointOk a) (h.pointOk b)
  | pmul d a b => exact scalarMultiply_ok (hmod .p rfl) (h.cfgFits .P) _ (h.pointOk a) _
  | pldg d => exact .finite (h.cfgFits .GX) (h.cfgFits .GY)
  | pseti d => exact .identity _
  | pmov d a => exact h.pointOk a
  | pset d a b => exact .finite (h.fieldFits a) (h.fieldFits b)
  | pgetx d a => exact coordResult_ok (h.pointOk a).xFits d _
  | pgety d a => exact coordResult_ok (h.pointOk a).yFits d _

end Sys2Proof.Machine
end

section
/-! PROOF. The good states: every step leads from one to another, so every run does
(10_state.md, 60_exceptions.md R170, 70_reset_and_hazards.md R200). -/

namespace Sys2Proof.Machine

/-! ### Registers after a write -/

theorem State.cfgReg_congr {s t : State} (h : t.cfg = s.cfg) (c : CfgReg) :
    t.cfgReg c = s.cfgReg c := by
  cases c <;> simp only [State.cfgReg, h]

theorem State.setWindowReg_windowReg_of_ne (s : State) {r q : WindowReg} (v : Val) (h : q ≠ r) :
    (s.setWindowReg r v).windowReg q = s.windowReg q := by
  cases r with
  | cfg c =>
    cases q with
    | cfg e => exact s.setCfgReg_cfgReg_of_ne v fun he => h (congrArg _ he)
    | field i =>
      change (s.setCfgReg c v).x i = s.x i
      rw [State.setCfgReg_eq]
      rfl
  | field i =>
    cases q with
    | cfg e => exact State.cfgReg_congr rfl e
    | field j => exact s.setX_x_of_ne v fun he => h (congrArg _ he)

theorem State.setX_fits {s : State} (h : ∀ i, fits s.width (s.x i)) {v : Val}
    (hv : fits s.width v) (d i : FReg) : fits s.width ((s.setX d v).x i) := by
  rcases eq_or_ne i d with rfl | hne
  · rwa [State.setX_x_self]
  · rw [s.setX_x_of_ne v hne]
    exact h i

theorem State.setPt_ok {s : State} (h : ∀ i, (s.pt i).Ok s.width) {u : Point}
    (hu : u.Ok s.width) (d i : PReg) : ((s.setPt d u).pt i).Ok s.width := by
  rcases eq_or_ne i d with rfl | hne
  · rwa [State.setPt_pt_self]
  · rw [s.setPt_pt_of_ne u hne]
    exact h i

/-- A window write leaves W-bit values in every register with a window. -/
theorem State.Inv.windowReg_fits {s : State} (h : s.Inv) (r : WindowReg) :
    fits s.width (s.windowReg r) := by
  cases r with
  | cfg c => exact h.cfgFits c
  | field i => exact h.fieldFits i

/-! ### The record in flight -/

theorem State.inflight_eq_none {s : State} (hb : s.busy = false) : s.inflight = none := by
  simpa [State.busy] using hb

/-- A command samples the modulus it selects (20_memory.md R65). -/
theorem State.record_modulus (s : State) {c : Instr} {ms : ModSel} (h : c.modSel = some ms) :
    (s.record c).snap.modulus = s.sel ms := by
  cases c <;> cases h <;> rfl

theorem Inflight.Ok.lacksModulus {s : State} {r : Inflight} (h : r.Ok s) :
    s.lacksModulus r.cmd = false := by
  refine (s.lacksModulus_eq_false_iff r.cmd).mpr fun ms hms => ?_
  have hmod := h.modulusOk ms hms
  rwa [h.live, s.record_modulus hms] at hmod

/-! ### What keeps a state good -/

/-- An idle CORE out of reset is good when its registers are and CMDLOG explains ERR. -/
theorem State.Inv.of_idle {t : State} (hb : t.busy = false) (hr : t.rst = false)
    (hfield : ∀ i, fits t.width (t.x i)) (hcfg : ∀ c, fits t.width (t.cfgReg c))
    (hpoint : ∀ i, (t.pt i).Ok t.width)
    (hillegal : t.status.err = .illegal → decode t.cmdlog = none)
    (hmodulus : t.status.err = .modulus →
      ∃ c ms, decode t.cmdlog = some c ∧ c.modSel = some ms) : t.Inv where
  fieldFits := hfield
  cfgFits := hcfg
  pointOk := hpoint
  busyQuiet h := by simp [hb] at h
  flightOk r h := by simp [State.inflight_eq_none hb] at h
  illegalLogged := hillegal
  modulusLogged := hmodulus
  held h := by simp [hr] at h

section Keeps
variable {s : State} (h : s.Inv)
include h

/-- DONE may be cleared, and CMDOVF, WERR, CTRL.IE and the model's own fields may change, if CORE is
not held in reset. -/
theorem State.Inv.with_control {st : Status} {ie : Bool} {es : List Event} {w : Word} {n : Nat}
    (herr : st.err = s.status.err) (hdone : s.status.done = false → st.done = false)
    (hheld : s.rst = true → st = s.status ∧ ie = s.ie) :
    ({ s with status := st, ie := ie, inbox := es, rdata := w, draws := n } : State).Inv where
  fieldFits := h.fieldFits
  cfgFits := h.cfgFits
  pointOk := h.pointOk
  busyQuiet hb :=
    let ⟨hd, he⟩ := h.busyQuiet hb
    ⟨hdone hd, herr.trans he⟩
  flightOk r hf :=
    let ⟨hlive, hmod, hlog⟩ := h.flightOk r hf
    ⟨hlive, hmod, hlog⟩
  illegalLogged he := h.illegalLogged (herr.symm.trans he)
  modulusLogged he := h.modulusLogged (herr.symm.trans he)
  held hr := by
    obtain ⟨rfl, rfl⟩ := hheld hr
    exact congrArg (fun t : State => { t with inbox := es, rdata := w, draws := n }) (h.held hr)

/-- A CMD write that fails: ERR says why, and CMDLOG holds the word. -/
theorem State.Inv.reject {w : Word} {e : ErrCode} (hb : s.busy = false) (hr : s.rst = false)
    (hillegal : e = .illegal → decode w = none)
    (hmodulus : e = .modulus → ∃ c ms, decode w = some c ∧ c.modSel = some ms) :
    ((s.acceptWord w).raise e).advance.Inv :=
  .of_idle hb hr h.fieldFits h.cfgFits h.pointOk hillegal hmodulus

/-- A CMD write that starts execution: the record is what is sampled from the live registers. -/
theorem State.Inv.start {c : Instr} (hr : s.rst = false) (hm : s.lacksModulus c = false) :
    ({ s.acceptWord (encode c) with inflight := some (s.record c) } : State).advance.Inv where
  fieldFits := h.fieldFits
  cfgFits := h.cfgFits
  pointOk := h.pointOk
  busyQuiet _ := ⟨rfl, rfl⟩
  flightOk r hf := by
    obtain rfl : s.record c = r := Option.some.inj hf
    refine ⟨rfl, fun ms hms => ?_, rfl⟩
    rw [s.record_modulus (c := c) hms]
    exact (s.lacksModulus_eq_false_iff c).mp hm ms hms
  illegalLogged he := nomatch he
  modulusLogged he := nomatch he
  held hr' := by simp [hr] at hr'

/-- An idle window write (20_memory.md R58). -/
theorem State.Inv.window {r : WindowReg} {v : Val} (hb : s.busy = false) (hr : s.rst = false)
    (hv : fits s.width v) : (s.setWindowReg r v).advance.Inv := by
  have hregs (q : WindowReg) : fits s.width ((s.setWindowReg r v).windowReg q) := by
    rcases eq_or_ne q r with rfl | hne
    · rwa [State.setWindowReg_windowReg_self]
    · rw [State.setWindowReg_windowReg_of_ne s v hne]
      exact h.windowReg_fits q
  have hfield (i : FReg) : fits s.width ((s.setWindowReg r v).x i) := hregs (.field i)
  have hcfg (c : CfgReg) : fits s.width ((s.setWindowReg r v).cfgReg c) := hregs (.cfg c)
  rw [State.setWindowReg_eq] at hfield hcfg ⊢
  exact .of_idle hb hr hfield hcfg h.pointOk h.illegalLogged h.modulusLogged

/-- A completion, whose result is a value CORE may hold (20_memory.md R66). -/
theorem State.Inv.complete {r : Result} (hr : s.rst = false) (hdest : r.dest.Ok s.width) :
    (s.complete r).advance.Inv := by
  obtain ⟨d, z, id, ni⟩ := r
  cases d with
  | field d v =>
    exact .of_idle rfl hr (State.setX_fits h.fieldFits hdest d) h.cfgFits h.pointOk
      h.illegalLogged h.modulusLogged
  | point d u =>
    exact .of_idle rfl hr h.fieldFits h.cfgFits (State.setPt_ok h.pointOk hdest d)
      h.illegalLogged h.modulusLogged

end Keeps

/-- The reset state is good, held or not (10_state.md R43). -/
theorem State.resetCore_inv (s : State) : s.resetCore.Inv :=
  have h := s.resetCore_isReset
  { fieldFits := fun i => h.field i ▸ fits_zero _
    cfgFits := fun c => h.cfg c ▸ fits_zero _
    pointOk := fun i => by rw [h.point i, ← Point.identity_eq]; exact .identity _
    busyQuiet := fun _ => ⟨rfl, rfl⟩
    flightOk := fun r hf => nomatch hf
    illegalLogged := fun he => nomatch he
    modulusLogged := fun he => nomatch he
    held := fun _ => rfl }

/-- Settles O35: the state after reset is its own reset. -/
theorem resetStateIsGood : Obligations.ResetStateIsGood :=
  State.reset.resetCore_inv

/-- Settles O36, move by move. -/
theorem everyStepKeepsTheInvariant : Obligations.EveryStepKeepsTheInvariant := by
  intro s t h hstep
  have not_held {o : Nat} {v : Word} {P : Prop} (hw : WritesWord s o v) : s.rst = true → P :=
    fun hr => by simp [hw.1] at hr
  cases Move.of_step hstep with
  | drop hw hb => exact h.with_control rfl id (not_held hw)
  | illegal hw hb hd => exact h.reject hb hw.1 (fun _ => hd) (fun he => nomatch he)
  | noModulus hw hb hd hm =>
    obtain ⟨ms, hms, -⟩ := (s.lacksModulus_iff _).mp hm
    exact h.reject hb hw.1 (fun he => nomatch he) (fun _ => ⟨_, ms, hd, hms⟩)
  | start hw hb hd hm =>
    rw [← encode_of_decode hd]
    exact h.start hw.1 hm
  | enable hw hv => exact h.with_control rfl id (not_held hw)
  | statusWrite hw =>
    exact h.with_control rfl (fun hd => by simp [hd]) (not_held hw)
  | dropWindow hw hk hb => exact h.with_control rfl id (not_held hw)
  | window hw hk hb =>
    exact h.window hb hw.1 (fits_putWord (h.windowReg_fits _) hk _)
  | ignored hw hctrl hstatus hcmd hwin => exact h.with_control rfl id (not_held hw)
  | reset b hr => exact State.resetCore_inv ({ s with rst := b } : State).advance
  | completion hc hf =>
    have hok := h.flightOk _ hf
    refine h.complete hc.2.1 ?_
    rw [hok.live]
    exact result_ok h hok.lacksModulus
  | quiet w n hw hc hr => exact h.with_control rfl id fun _ => ⟨rfl, rfl⟩

/-! ### No step stops -/

theorem exists_step (s : State) : ∃ t, step s = .next t := by
  rcases step_cases s with ⟨_, _, _, _, e⟩ | ⟨_, _, _, e⟩ | ⟨_, _, _, _, _, e⟩ | ⟨_, _, _, e⟩ |
      ⟨_, _, _, e⟩ | ⟨_, _, _, _, _, e⟩ | ⟨_, _, e⟩ <;>
    exact ⟨_, e⟩

theorem exists_exec (i : Instr) (s : State) : ∃ t, exec i s = .next t := by
  cases ht : s.turn with
  | host => exact ⟨_, exec_of_host i ht⟩
  | sequencer =>
    by_cases hf : ∃ r, s.inflight = some r ∧ r.cmd = i
    · obtain ⟨r, hf, rfl⟩ := hf
      exact ⟨_, exec_of_sequencer ht hf⟩
    · exact ⟨_, exec_of_not_in_flight i ht fun r hr he => hf ⟨r, hr, he⟩⟩

/-- Settles O37: every case of a step, and of `exec`, answers a next state. -/
theorem nothingEverStops : Obligations.NothingEverStops := ⟨exists_step, exists_exec⟩

/-! ### Runs -/

/-- Settles O38, by induction on the number of steps. -/
theorem runsFromGoodStatesAreSafe : Obligations.RunsFromGoodStatesAreSafe := by
  intro s n
  induction n generalizing s with
  | zero => exact fun h => ⟨s, run_zero s, h⟩
  | succ n ih =>
    intro h
    obtain ⟨t, ht⟩ := exists_step s
    rw [SafeRun, run_succ n ht]
    exact ih t (everyStepKeepsTheInvariant s t h ht)

/-- In a good state a command in flight is not held in reset (70_reset_and_hazards.md R200). -/
theorem State.Inv.rst_of_busy {s : State} (h : s.Inv) (hb : s.busy = true) : s.rst = false := by
  rw [← Bool.not_eq_true]
  intro hr
  rw [← h.held hr] at hb
  cases hb

/-- With the inbox empty a command in flight completes (20_memory.md R67). -/
theorem step_of_empty_inbox {s : State} (h : s.Inv) (hi : s.inbox = []) :
    ∃ t, step s = .next t ∧ t.busy = false := by
  rcases hf : s.inflight with _ | r
  · exact ⟨_, step_of_nothing (.inr hi) (.inr hf), by simp [State.busy, hf]⟩
  · have hb : s.busy = true := by simp [State.busy, hf]
    have ht : s.turn = .sequencer := by simp [State.turn, hi, hb]
    exact ⟨_, step_of_completion ht (h.rst_of_busy hb) hf, rfl⟩

/-- Settles O39, by induction on the inbox, which every step shortens by its own move. -/
theorem busyEndsWithTheInbox : Obligations.BusyEndsWithTheInbox := by
  intro s h
  generalize hes : s.inbox = es
  induction es generalizing s with
  | nil =>
    obtain ⟨t, ht, hb⟩ := step_of_empty_inbox h hes
    exact ⟨t, run_succ 0 ht, hb, by rw [step_inbox ht, hes]; rfl⟩
  | cons e es ih =>
    obtain ⟨t, ht⟩ := exists_step s
    rw [List.length_cons, run_succ _ ht]
    exact ih t (everyStepKeepsTheInvariant s t h ht) (by rw [step_inbox ht, hes]; rfl)

end Sys2Proof.Machine
end

section
/-! PROOF. What each command in flight completes with (40_field.md R111 to R118,
41_point.md R140 and R150 to R157). -/

namespace Sys2Proof.Machine

/-! ### Field results -/

theorem addMod_toNat {m : Val} (hm : 2 ≤ m.toNat) (a b : Val) :
    ((addMod m a b).toNat : Int) = ((a.toNat : Int) + b.toNat) % m.toNat :=
  toVal_residue_toNat hm _

theorem mulMod_toNat {m : Val} (hm : 2 ≤ m.toNat) (a b : Val) :
    ((mulMod m a b).toNat : Int) = ((a.toNat : Int) * b.toNat) % m.toNat :=
  toVal_residue_toNat hm _

theorem negMod_toNat {m : Val} (hm : 2 ≤ m.toNat) (a : Val) :
    ((negMod m a).toNat : Int) = (0 - (a.toNat : Int)) % m.toNat :=
  toVal_residue_toNat hm _

theorem redMod_toNat {m : Val} (hm : 2 ≤ m.toNat) (a : Val) :
    ((redMod m a).toNat : Int) = (a.toNat : Int) % m.toNat :=
  toVal_residue_toNat hm _

theorem zero_toNat : ((0 : Val).toNat : Int) = 0 :=
  (beq_zero_iff 0).mp (beq_self_eq_true _)

/-- Settles O15: each result is a residue modulo the sampled modulus. -/
theorem fieldBinaryResults : Obligations.FieldBinaryResults := fun _ _ _ _ _ _ _ hm =>
  ⟨fun h => fieldDone_of_inFlight h rfl (addMod_toNat hm _ _), fun h => fieldDone_fsub h hm,
    fun h => fieldDone_of_inFlight h rfl (mulMod_toNat hm _ _)⟩

/-- Settles O16: each result is a residue modulo the sampled modulus. -/
theorem fieldUnaryResults : Obligations.FieldUnaryResults := fun _ _ _ _ _ _ hm =>
  ⟨fun h => fieldDone_of_inFlight h rfl (mulMod_toNat hm _ _),
    fun h => fieldDone_of_inFlight h rfl (negMod_toNat hm _),
    fun h => fieldDone_of_inFlight h rfl (redMod_toNat hm _)⟩

/-- Settles O18: the value copied is the one sampled. -/
theorem copyResult : Obligations.CopyResult := fun _ _ _ _ _ h => fieldDone_of_inFlight h rfl rfl

/-- A command with a field destination completes with its value and its flags. -/
theorem fieldDone_of_dest {s : State} {c : Instr} {snap : Snapshot} {work : MulWork} {d : FReg}
    {v : Val} {z id ni : Bool} {n : Int} (h : InFlight s c snap work)
    (hr : Inflight.result ⟨c, snap, work⟩ = ⟨.field d v, z, id, ni⟩) (hv : (v.toNat : Int) = n)
    (hz : z = true ↔ n = 0) : FieldDone s (exec c s) d n id ni := by
  rw [exec_of_inFlight h, hr]
  refine ⟨_, rfl, ?_, fun j hj => s.setX_x_of_ne v hj, fun j => rfl, hz, rfl, rfl,
    s.complete_frame _⟩
  rw [State.complete_x_of_dest rfl, hv]

/-! ### FINV -/

theorem residue_natCast (n m : Nat) : residue n m = n % m := by
  rw [residue, ← Int.natCast_mod, Int.toNat_natCast]

theorem invVal_eq_none_iff {m : Val} (hm : 2 ≤ m.toNat) (a : Val) :
    invVal m a = none ↔ Nat.gcd a.toNat m.toNat ≠ 1 := by
  rw [invVal, Option.map_eq_none_iff, invMod_eq_none_iff hm, residue_natCast,
    ← Nat.gcd_rec, Nat.gcd_comm]

/-- The inverse, where there is one, is what the algorithm finds (40_field.md R102). -/
theorem invVal_eq_some {m a : Val} {u : Nat} (hm : 2 ≤ m.toNat) (hlt : u < m.toNat)
    (hinv : a.toNat * u % m.toNat = 1) : invVal m a = some (toVal u) := by
  have hmod : (a.toNat : Int) * u ≡ 1 [ZMOD m.toNat] :=
    (modEq_one_iff hm _).mpr (by exact_mod_cast hinv)
  rw [invVal, invMod_eq_some_of_modEq hm hmod, residue_of_lt hlt]
  rfl

/-- Settles O17: the algorithm decides between the inverse and NI = 1. -/
theorem inverseResults : Obligations.InverseResults := by
  intro ms d a s snap work h hm
  refine ⟨fun u hpos hlt hinv => ?_, fun hgcd => ?_, fun hgcd => ?_⟩
  · refine fieldDone_of_dest (v := toVal u) (z := false) h ?_ ?_ ?_
    · exact congrArg (inverseResult d) (invVal_eq_some hm hlt hinv)
    · rw [toVal_toNat_of_lt hlt]
    · simp only [Bool.false_eq_true, false_iff]
      omega
  · refine fieldDone_of_dest (v := 0) (z := true) h ?_ zero_toNat (iff_of_true rfl rfl)
    exact congrArg (inverseResult d) ((invVal_eq_none_iff hm _).mpr hgcd)
  · rcases hinv : invVal snap.modulus snap.xa with _ | v
    · exact absurd hgcd ((invVal_eq_none_iff hm _).mp hinv)
    · obtain ⟨u, hu, -⟩ := Option.map_eq_some_iff.mp hinv
      obtain ⟨hlt, hmod⟩ := of_invMod_eq_some hm hu
      have hrem := (modEq_one_iff hm _).mp hmod
      exact ⟨u, pos_of_mul_emod_eq_one hrem, hlt, by exact_mod_cast hrem⟩

/-! ### Coordinates -/

/-- A coordinate command completes with the coordinate of a finite point, or with 0. -/
theorem fieldDone_coord {s : State} {c : Instr} {snap : Snapshot} {work : MulWork} {d : FReg}
    {src : Point} {coord : Val} (h : InFlight s c snap work)
    (hr : Inflight.result ⟨c, snap, work⟩ = coordResult d src coord) :
    FieldDone s (exec c s) d (if src.inf then 0 else coord.toNat) src.inf false := by
  have hv : ((if src.inf then 0 else coord : Val).toNat : Int)
      = if src.inf then (0 : Int) else coord.toNat := by
    rw [← zero_toNat]
    split <;> rfl
  exact fieldDone_of_dest h hr hv (hv ▸ beq_zero_iff _)

/-- Settles O22: both commands give a coordinate of the sampled point. -/
theorem coordinateResults : Obligations.CoordinateResults := fun _ _ _ _ _ =>
  ⟨fun h => fieldDone_coord h rfl, fun h => fieldDone_coord h rfl⟩

/-! ### Point results -/

/-- A command whose result is a point completes with it (41_point.md R131). -/
theorem pointDone_of_inFlight {s : State} {c : Instr} {snap : Snapshot} {work : MulWork} {d : PReg}
    {u : Point} (h : InFlight s c snap work)
    (hr : Inflight.result ⟨c, snap, work⟩ = pointResult d u) : PointDone s (exec c s) d u := by
  rw [exec_of_inFlight h, hr]
  exact ⟨_, rfl, s.setPt_pt_self d u, fun j hj => s.setPt_pt_of_ne u hj, fun j => rfl, rfl, rfl,
    rfl, s.complete_frame _⟩

/-- Settles O19: the result is the sum of the sampled points. -/
theorem pointAdditionResult : Obligations.PointAdditionResult := fun _ _ _ _ _ _ h =>
  pointDone_of_inFlight h rfl

/-- Settles O20: the record PMUL starts from is that of `scalarMultiply`. -/
theorem scalarMultiplicationResult : Obligations.ScalarMultiplicationResult := by
  intro d a b s snap t0 n h
  refine pointDone_of_inFlight h ?_
  rw [scalarMultiply, MulWork.start, Point.identity_eq]
  rfl

/-- Settles O21: the result is a point of the sampled values as they are. -/
theorem pointMoveResults : Obligations.PointMoveResults := by
  refine ⟨fun d s snap work h => pointDone_of_inFlight h rfl, fun d s snap work h => ?_,
    fun d a s snap work h => pointDone_of_inFlight h rfl,
    fun d a b s snap work h => pointDone_of_inFlight h rfl⟩
  rw [← Point.identity_eq]
  exact pointDone_of_inFlight h rfl

/-! ### Double-and-add -/

/-- One turn of the loop (41_point.md R140). -/
theorem mulLoop_turn (p a : Val) (fuel : Nat) (acc tmpl : Point) {n : Nat} (h : n ≠ 0) :
    mulLoop p a (fuel + 1) acc tmpl n
      = mulLoop p a fuel (if n % 2 = 1 then addPoints p a acc tmpl else acc)
          (addPoints p a tmpl tmpl) (n / 2) :=
  if_neg h

/-- Fuel beyond the bit length of the scalar changes nothing. -/
theorem mulLoop_succ_fuel (p a : Val) {fuel n : Nat} (h : n < 2 ^ fuel) (acc tmpl : Point) :
    mulLoop p a (fuel + 1) acc tmpl n = mulLoop p a fuel acc tmpl n := by
  induction fuel generalizing n acc tmpl with
  | zero =>
    obtain rfl : n = 0 := Nat.lt_one_iff.mp h
    exact mulLoop_zero p a 1 acc tmpl
  | succ fuel ih =>
    rcases eq_or_ne n 0 with rfl | hne
    · rw [mulLoop_zero, mulLoop_zero]
    · have hhalf : n / 2 < 2 ^ fuel := Nat.div_lt_of_lt_mul (by rwa [← Nat.pow_succ'])
      rw [mulLoop_turn _ _ _ _ _ hne, mulLoop_turn _ _ _ _ _ hne, ih hhalf]

/-- A turn costs no fuel while the scalar is shorter than the fuel. -/
theorem mulLoop_turn_of_lt (p a : Val) {fuel n : Nat} (h : n < 2 ^ fuel) (hne : n ≠ 0)
    (acc tmpl : Point) :
    mulLoop p a fuel acc tmpl n
      = mulLoop p a fuel (if n % 2 = 1 then addPoints p a acc tmpl else acc)
          (addPoints p a tmpl tmpl) (n / 2) := by
  rw [← mulLoop_succ_fuel p a h acc tmpl, mulLoop_turn _ _ _ _ _ hne]

theorem getLsbD_zero_iff (n : Val) : n.getLsbD 0 = true ↔ n.toNat % 2 = 1 := by
  rw [BitVec.getLsbD, Nat.testBit_zero, decide_eq_true_iff]

/-- Settles O27: a scalar is shorter than the fuel of 512 turns, so the fuel never runs out. -/
theorem doubleAndAddLoop : Obligations.DoubleAndAddLoop := by
  refine fun p a => ⟨fun acc tmpl => ?_, fun acc tmpl n hn => ?_, fun t0 n => ?_⟩
  · rw [MulWork.finish, BitVec.ofNat_eq_ofNat, BitVec.toNat_zero, mulLoop_zero]
  · have hne : n.toNat ≠ 0 := fun h => hn (BitVec.eq_of_toNat_eq (h.trans BitVec.toNat_zero.symm))
    have hlt {w : Nat} (v : BitVec w) : v.toNat < 2 ^ w := v.isLt
    have hshift : (n >>> 1).toNat = n.toNat / 2 := by
      rw [BitVec.toNat_ushiftRight, Nat.shiftRight_one]
    simp only [MulWork.finish, getLsbD_zero_iff, hshift]
    exact mulLoop_turn_of_lt p a (hlt n) hne acc tmpl
  · rw [scalarMultiply, MulWork.start, Point.identity_eq]

end Sys2Proof.Machine
end

section
/-! PROOF. Issuing a command and running it to its end (20_memory.md R64 to R66). -/

namespace Sys2Proof.Machine

/-! ### Issuing -/

/-- The host's CMD write of the word of `c`, accepted: the word is logged, DONE and ERR are cleared,
and the record is in flight (20_memory.md R64). -/
def State.started (s : State) (c : Instr) : State :=
  { s.acceptWord (encode c) with inflight := some (s.record c) }

theorem State.issue_eq_started {s : State} {c : Instr} (hb : s.busy = false)
    (hm : s.lacksModulus c = false) : s.issue (encode c) (some c) = s.started c :=
  State.issue_of_accepted hb hm _

/-- Settles O1: `step` is `exec` of the command written, or of the one in flight, and then
`advance`. -/
theorem stepRunsTheDecodedCommand : Obligations.StepRunsTheDecodedCommand := by
  have written {s : State} {w : Word} {i : Instr} (hw : WritesWord s 0x00C w)
      (hd : decode w = some i) : step s = advanceOutcome (exec i s) := by
    obtain ⟨-, off, rest, hi, -⟩ := id hw
    rw [step_of_command hw hd, exec_of_host i (turn_of_write hi)]
    rfl
  refine ⟨fun s w i => written, fun s r ht hr hf => ?_,
    fun s nbits w i hd => written ⟨rfl, _, _, rfl, rfl⟩ hd, fun t => rfl⟩
  rw [step_of_completion ht hr hf, exec_of_sequencer ht hf]
  rfl

/-- Settles O8: the accepted case of `IssueCommand`. -/
theorem acceptedCommandIsPutInFlight : Obligations.AcceptedCommandIsPutInFlight := by
  intro i s ⟨ht, hb⟩ hge
  rw [exec_of_host i ht, State.issue_eq_started hb ((s.lacksModulus_eq_false_iff i).mpr hge)]
  rfl

/-- Settles O12: the case of `IssueCommand` while BUSY = 1, whatever the word. -/
theorem commandWhileBusyIsDropped : Obligations.CommandWhileBusyIsDropped := by
  refine ⟨fun i s ht hb => ?_, fun s hdrop => step_of_dropped_command hdrop⟩
  rw [exec_of_host i ht, State.issue_of_busy hb]
  rfl

/-- `sel(MS)` (40_field.md R119). -/
theorem State.sel_eq (s : State) (ms : ModSel) :
    s.sel ms = if ms = .p then s.cfg.p else s.cfg.q := by
  cases ms <;> rfl

/-- Settles O9, command by command: the record is the sample and the working record it starts
from. -/
theorem recordHoldsTheSampledOperands : Obligations.RecordHoldsTheSampledOperands := by
  refine fun s => ⟨fun ms d a b c hc => ?_, fun ms d a c hc => ?_, fun d a => ⟨rfl, rfl⟩,
    fun d a b => ⟨rfl, rfl, rfl, rfl, rfl⟩, fun d a b => ⟨rfl, ?_, rfl, rfl⟩,
    fun d => ⟨rfl, rfl, rfl⟩, fun d => rfl, fun d a => ⟨rfl, rfl⟩, fun d a b => ⟨rfl, rfl, rfl⟩,
    fun d a c hc => ?_⟩
  · simp only [List.mem_cons, List.not_mem_nil, or_false] at hc
    rcases hc with rfl | rfl | rfl
    all_goals exact ⟨rfl, rfl, rfl, s.sel_eq ms⟩
  · simp only [List.mem_cons, List.not_mem_nil, or_false] at hc
    rcases hc with rfl | rfl | rfl | rfl
    all_goals exact ⟨rfl, rfl, s.sel_eq ms⟩
  · rw [← Point.identity_eq]
    rfl
  · simp only [List.mem_cons, List.not_mem_nil, or_false] at hc
    rcases hc with rfl | rfl
    all_goals exact ⟨rfl, rfl⟩

/-! ### Issue, then completion -/

/-- The second step of a command: the sequencer's move completes it. -/
theorem step_started {s : State} (hr : s.rst = false) (c : Instr) (rest : List Event) :
    step ((s.started c).withInbox (.sequencer :: rest))
      = .next (((s.started c).complete (s.record c).result).withInbox rest) :=
  step_withInbox_sequencer (s := s.started c) hr rfl rest

section Run
variable {s : State} {c : Instr} (hr : s.rst = false) (hb : s.busy = false)
  (hm : s.lacksModulus c = false)
include hr hb hm

theorem step_withInbox_start {off : Offset} (ho : wordOffset off = 0x00C) (rest : List Event) :
    step (s.withInbox (.write off (encode c) :: rest)) = .next ((s.started c).withInbox rest) := by
  rw [step_withInbox_write, if_pos ⟨hr, ho⟩, decode_encode, State.issue_eq_started hb hm]

/-- The two steps of a command, and what every command leaves. -/
theorem runsTo_of_complete {P : State → Prop}
    (hp : P (((s.started c).complete (s.record c).result).withInbox [])) : RunsTo s c P :=
  ⟨_, _, step_withInbox_start hr hb hm rfl [.sequencer], rfl, step_started hr c [], rfl, rfl,
    rfl, (s.started c).complete_cmdlog _, ((s.started c).complete_frame _).cfg,
    ((s.started c).complete_frame _).ie, hp⟩

/-- A command that completes with a field value, run from its issue. -/
theorem runsTo_holdsField {d : FReg} {n : Int} {id ni : Bool}
    (hdone : ∀ t, InFlight t c (s.sample c) ((s.sample c).startWork c) →
      FieldDone t (exec c t) d n id ni) : RunsTo s c (HoldsField s d n id ni) := by
  have hfly : InFlight ((s.started c).withInbox [.sequencer]) c (s.sample c)
      ((s.sample c).startWork c) := ⟨rfl, rfl⟩
  obtain ⟨u, hu, hd, hx, hpt, hz, hid, hni, -⟩ := hdone _ hfly
  rw [exec_of_inFlight hfly, State.complete_withInbox] at hu
  cases hu
  exact runsTo_of_complete hr hb hm ⟨hd, hx, hpt, hz, hid, hni⟩

/-- A command that completes with a point, run from its issue. -/
theorem runsTo_holdsPoint {d : PReg} {v : Point}
    (hdone : ∀ t, InFlight t c (s.sample c) ((s.sample c).startWork c) →
      PointDone t (exec c t) d v) : RunsTo s c (HoldsPoint s d v) := by
  have hfly : InFlight ((s.started c).withInbox [.sequencer]) c (s.sample c)
      ((s.sample c).startWork c) := ⟨rfl, rfl⟩
  obtain ⟨u, hu, hd, hpt, hx, hz, hid, hni, -⟩ := hdone _ hfly
  rw [exec_of_inFlight hfly, State.complete_withInbox] at hu
  cases hu
  exact runsTo_of_complete hr hb hm ⟨hd, hpt, hx, hz, hid, hni⟩

end Run

/-- Settles O30: the CMD write is accepted, and the record it puts in flight is the one that
completes. -/
theorem issueThenComplete : Obligations.IssueThenComplete := by
  intro s off i rest hr hb ho hi hge
  have hm := (s.lacksModulus_eq_false_iff i).mpr hge
  have hfirst := step_withInbox_start hr hb hm ho (.sequencer :: rest)
  rw [← hi] at hfirst
  have hfly : InFlight ((s.started i).withInbox (.sequencer :: rest)) i (s.sample i)
      ((s.sample i).startWork i) := ⟨rfl, rfl⟩
  refine ⟨_, _, hfirst, rfl, rfl, rfl, rfl, exec_of_inFlight hfly, ?_, rfl, rfl, rfl,
    State.complete_cmdlog _ _⟩
  rw [step_started hr, State.complete_withInbox]
  rfl

theorem State.lacksModulus_of_modSel {s : State} {c : Instr} {ms : ModSel}
    (hc : c.modSel = some ms) (h : 2 ≤ (s.sel ms).toNat) : s.lacksModulus c = false := by
  rw [State.lacksModulus, hc]
  exact decide_eq_false (Nat.not_lt.mpr h)

/-- Settles O31: the record of a command holds its live sources, and completes with their result. -/
theorem fieldCommandsFromIssueToResult : Obligations.FieldCommandsFromIssueToResult := by
  refine fun s hr hb => ⟨fun ms d a b hm => ?_, fun d a =>
    runsTo_holdsField hr hb rfl fun t h => copyResult d a t _ _ h⟩
  have run {c : Instr} {n : Int} {ni : Bool} (hc : c.modSel = some ms) :=
    runsTo_holdsField (c := c) (d := d) (n := n) (id := false) (ni := ni) hr hb
      (State.lacksModulus_of_modSel hc hm)
  exact ⟨run rfl fun t h => (fieldBinaryResults ms d a b t _ _ hm).1 h,
    run rfl fun t h => (fieldBinaryResults ms d a b t _ _ hm).2.1 h,
    run rfl fun t h => (fieldBinaryResults ms d a b t _ _ hm).2.2 h,
    run rfl fun t h => (fieldUnaryResults ms d a t _ _ hm).1 h,
    run rfl fun t h => (fieldUnaryResults ms d a t _ _ hm).2.1 h,
    run rfl fun t h => (fieldUnaryResults ms d a t _ _ hm).2.2 h,
    fun u hpos hlt hinv => run rfl fun t h =>
      (inverseResults ms d a t _ _ h hm).1 u hpos hlt hinv,
    fun hgcd => run rfl fun t h => (inverseResults ms d a t _ _ h hm).2.1 hgcd⟩

/-- Settles O32: the record of a command holds its live sources, and completes with their result. -/
theorem pointCommandsFromIssueToResult : Obligations.PointCommandsFromIssueToResult := by
  intro s hr hb
  obtain ⟨base, identity, move, build⟩ := pointMoveResults
  refine ⟨fun d a b n hp => ⟨?_, ?_⟩, fun d => ⟨?_, ?_⟩, fun d a => ?_, fun d a b => ?_,
    fun d a => ⟨?_, ?_⟩⟩
  · exact runsTo_holdsPoint hr hb (State.lacksModulus_of_modSel (ms := .p) rfl hp)
      fun t h => pointAdditionResult d a b t _ _ h
  · exact runsTo_holdsPoint hr hb (State.lacksModulus_of_modSel (ms := .p) rfl hp)
      fun t h => pointDone_of_inFlight h rfl
  · exact runsTo_holdsPoint hr hb rfl fun t h => base d t _ _ h
  · exact runsTo_holdsPoint hr hb rfl fun t h => identity d t _ _ h
  · exact runsTo_holdsPoint hr hb rfl fun t h => move d a t _ _ h
  · exact runsTo_holdsPoint hr hb rfl fun t h => build d a b t _ _ h
  · exact runsTo_holdsField hr hb rfl fun t h => (coordinateResults d a t _ _).1 h
  · exact runsTo_holdsField hr hb rfl fun t h => (coordinateResults d a t _ _).2 h

end Sys2Proof.Machine
end

section
/-! PROOF. What may change the flags and the register files, and why nothing short of a reset
changes what a running command does (10_state.md R20 to R36, 20_memory.md R58 to R69). -/

namespace Sys2Proof.Machine

/-! ### What a window write and a completion keep -/

@[simp] theorem State.setWindowReg_width (s : State) (r : WindowReg) (v : Val) :
    (s.setWindowReg r v).width = s.width := by
  rw [State.setWindowReg_eq]

@[simp] theorem State.setWindowReg_pointRegs (s : State) (r : WindowReg) (v : Val) :
    (s.setWindowReg r v).pointRegs = s.pointRegs := by
  rw [State.setWindowReg_eq]

@[simp] theorem State.setWindowReg_ie (s : State) (r : WindowReg) (v : Val) :
    (s.setWindowReg r v).ie = s.ie := by
  rw [State.setWindowReg_eq]

/-- A write of a configuration register leaves the field registers alone. -/
@[simp] theorem State.setWindowReg_cfg_fieldRegs (s : State) (c : CfgReg) (v : Val) :
    (s.setWindowReg (.cfg c) v).fieldRegs = s.fieldRegs := by
  cases c <;> rfl

@[simp] theorem State.complete_cfg (s : State) (r : Result) : (s.complete r).cfg = s.cfg :=
  (s.complete_frame r).cfg

@[simp] theorem State.complete_ie (s : State) (r : Result) : (s.complete r).ie = s.ie :=
  (s.complete_frame r).ie

/-- Settles O44, move by move. -/
theorem flagsChangeOnlyAtCompletion : Obligations.FlagsChangeOnlyAtCompletion := by
  intro s t h hnc hnr
  cases Move.of_step h with
  | completion hc hf => exact absurd hc hnc
  | reset b hr => exact absurd hr hnr
  | window hw hk hb => rw [State.advance_status, State.setWindowReg_status]; exact ⟨rfl, rfl, rfl⟩
  | _ => exact ⟨rfl, rfl, rfl⟩

/-! ### The register files -/

theorem step_width {s t : State} (h : step s = .next t) : t.width = s.width := by
  cases Move.of_step h with
  | window => rw [State.advance_width, State.setWindowReg_width]
  | completion => rw [State.advance_width, State.complete_width]
  | _ => rfl

/-- `SameCommand s t`: t holds what the command in flight in `s`, and its completion, depend on and
write: nothing but STATUS.DONE, CMDOVF, WERR, CTRL.IE and the model's own fields may differ. -/
structure SameCommand (s t : State) : Prop where
  fieldRegs : t.fieldRegs = s.fieldRegs
  pointRegs : t.pointRegs = s.pointRegs
  cfg : t.cfg = s.cfg
  inflight : t.inflight = s.inflight
  rst : t.rst = s.rst
  cmdlog : t.cmdlog = s.cmdlog
  err : t.status.err = s.status.err
  z : t.status.z = s.status.z
  id : t.status.id = s.status.id
  ni : t.status.ni = s.status.ni

/-- While BUSY = 1 only a completion or a reset touches the command (20_memory.md R65, R69). -/
theorem sameCommand_of_step {s t : State} (hb : s.busy = true) (h : step s = .next t)
    (hnc : ¬ Completes s) (hnr : ¬ Resets s) : SameCommand s t := by
  cases Move.of_step h with
  | completion hc hf => exact absurd hc hnc
  | reset b hr => exact absurd hr hnr
  | start hw hb' | illegal hw hb' | noModulus hw hb' | window hw hk hb' => simp [hb] at hb'
  | _ => constructor <;> rfl

theorem step_pointRegs {s t : State} (h : step s = .next t) (hnc : ¬ Completes s)
    (hnr : ¬ Resets s) : t.pointRegs = s.pointRegs := by
  cases Move.of_step h with
  | completion hc hf => exact absurd hc hnc
  | reset b hr => exact absurd hr hnr
  | window => rw [State.advance_pointRegs, State.setWindowReg_pointRegs]
  | _ => rfl

theorem step_fieldRegs {s t : State} (h : step s = .next t) (hnc : ¬ Completes s)
    (hnr : ¬ Resets s) (hnw : ∀ i k v, ¬ WritesWindow s (.field i) k v) :
    t.fieldRegs = s.fieldRegs := by
  cases Move.of_step h with
  | completion hc hf => exact absurd hc hnc
  | reset b hr => exact absurd hr hnr
  | @window r k v hw hk hb =>
    cases r with
    | field i => exact absurd ⟨hk, hw⟩ (hnw i k v)
    | cfg c => rw [State.advance_fieldRegs, State.setWindowReg_cfg_fieldRegs]
  | _ => rfl

/-- The configuration changes by an idle window write and by a reset (10_state.md R26). -/
theorem step_cfg {s t : State} (h : step s = .next t) (hnr : ¬ Resets s)
    (hnw : s.busy = false → ∀ c k v, ¬ WritesWindow s (.cfg c) k v) : t.cfg = s.cfg := by
  cases Move.of_step h with
  | completion hc hf => rw [State.advance_cfg, State.complete_cfg]
  | reset b hr => exact absurd hr hnr
  | @window r k v hw hk hb =>
    cases r with
    | field i => rfl
    | cfg c => exact absurd ⟨hk, hw⟩ (hnw hb c k v)
  | _ => rfl

theorem step_ie {s t : State} (h : step s = .next t) (hnr : ¬ Resets s)
    (hnw : ∀ v, ¬ WritesWord s 0x004 v) : t.ie = s.ie := by
  cases Move.of_step h with
  | completion hc hf => rw [State.advance_ie, State.complete_ie]
  | reset b hr => exact absurd hr hnr
  | window => rw [State.advance_ie, State.setWindowReg_ie]
  | enable hw hv => exact absurd hw (hnw _)
  | _ => rfl

/-- Settles O45: ID is a function of the width; while BUSY = 1 no window write lands. -/
theorem registersChangeOnlyBy : Obligations.RegistersChangeOnlyBy := by
  intro s t h
  have hwidth := step_width h
  exact ⟨hwidth, by rw [State.idWord, State.idWord, hwidth], step_pointRegs h, step_fieldRegs h,
    fun hnr hnw => step_cfg h hnr fun _ => hnw,
    fun hb hnc hnr => (sameCommand_of_step hb h hnc hnr).fieldRegs,
    fun hb hnr => step_cfg h hnr fun hidle => by simp [hb] at hidle, step_ie h⟩

/-- Settles O49: the write replaces one register, and in it one word. -/
theorem idleWindowWriteReplacesOneWord : Obligations.IdleWindowWriteReplacesOneWord := by
  intro s r k v hw hb
  have hk : k < 16 := hw.1.trans_le s.width.words_le
  refine ⟨_, step_of_window hw hb, ?_, fun l hl hne => ?_, fun q hne => ?_, ?_⟩
  · rw [State.advance_windowReg, State.setWindowReg_windowReg_self, wordOf_putWord_self _ _ hk]
  · rw [State.advance_windowReg, State.setWindowReg_windowReg_self, wordOf_putWord_of_ne _ _ hl hne]
  · rw [State.advance_windowReg, State.setWindowReg_windowReg_of_ne s _ hne]
  · rw [State.setWindowReg_eq]
    rfl

/-! ### Accesses while a command runs -/

namespace SameCommand

theorem trans {s t u : State} (h : SameCommand s t) (h' : SameCommand t u) : SameCommand s u where
  fieldRegs := h'.fieldRegs.trans h.fieldRegs
  pointRegs := h'.pointRegs.trans h.pointRegs
  cfg := h'.cfg.trans h.cfg
  inflight := h'.inflight.trans h.inflight
  rst := h'.rst.trans h.rst
  cmdlog := h'.cmdlog.trans h.cmdlog
  err := h'.err.trans h.err
  z := h'.z.trans h.z
  id := h'.id.trans h.id
  ni := h'.ni.trans h.ni

theorem withInbox (s : State) (es : List Event) : SameCommand s (s.withInbox es) := by
  constructor <;> rfl

/-- The completions of one command leave the same register files. -/
theorem complete {s t : State} (h : SameCommand s t) (r : Result) :
    (t.complete r).fieldRegs = (s.complete r).fieldRegs
      ∧ (t.complete r).pointRegs = (s.complete r).pointRegs := by
  obtain ⟨d | d, z, id, ni⟩ := r
  · exact ⟨congrArg (fun v : Vector Val 16 => v.set d.val _) h.fieldRegs, h.pointRegs⟩
  · exact ⟨h.fieldRegs, congrArg (fun v : Vector Point 8 => v.set d.val _) h.pointRegs⟩

end SameCommand

/-- A harmless access is the host's move, and no reset. -/
theorem Harmless.not_completes_not_resets {s : State} {e : Event} {rest : List Event}
    (h : Harmless e) (hi : s.inbox = e :: rest) : ¬ Completes s ∧ ¬ Resets s := by
  cases e with
  | read off => simp [Completes, Resets, WritesWord, State.turn, hi]
  | write off v =>
    refine ⟨by simp [Completes, State.turn, hi], ?_⟩
    rintro (⟨w, hw, hbit⟩ | ⟨rest', hi'⟩ | ⟨-, rest', hi'⟩)
    · obtain ⟨-, off', rest', hi', ho⟩ := hw
      rw [hi] at hi'
      cases hi'
      have hv : v.getLsbD 0 = false := h ho
      rw [hv] at hbit
      cases hbit
    all_goals simp [hi] at hi'
  | sequencer => exact h.elim
  | rst b => exact h.elim

/-- Harmless accesses and then the sequencer's move: the run ends with the completion of the same
command. -/
theorem run_harmless {s : State} {r : Inflight} (es : List Event) (hr : s.rst = false)
    (hf : s.inflight = some r) (hes : ∀ e ∈ es, Harmless e) :
    ∃ u, SameCommand s u
      ∧ Host.Core.run core (es.length + 1) (s.withInbox (es ++ [.sequencer]))
        = .next (u.complete r.result) := by
  induction es generalizing s with
  | nil =>
    refine ⟨s.withInbox [], .withInbox s [], run_succ 0 ?_⟩
    rw [State.complete_withInbox]
    exact step_withInbox_sequencer hr hf []
  | cons e es ih =>
    obtain ⟨he, hes⟩ := List.forall_mem_cons.mp hes
    obtain ⟨t, ht⟩ := exists_step (s.withInbox (e :: (es ++ [.sequencer])))
    obtain ⟨hnc, hnr⟩ := he.not_completes_not_resets (s.withInbox_inbox _)
    have hb : s.busy = true := by simp [State.busy, hf]
    have hst : SameCommand s t := (SameCommand.withInbox s _).trans
      (sameCommand_of_step (s := s.withInbox (e :: (es ++ [.sequencer]))) hb ht hnc hnr)
    obtain ⟨u, htu, hrun⟩ := ih (hst.rst.trans hr) (hst.inflight.trans hf) hes
    refine ⟨u, hst.trans htu, ?_⟩
    have hinbox : t.withInbox (es ++ [.sequencer]) = t := by
      have htail : t.inbox = es ++ [.sequencer] := step_inbox ht
      rw [← htail]
      rfl
    rw [List.cons_append, List.length_cons, run_succ _ ht, ← hinbox, hrun]

/-- Settles O33: the run ends with the completion of the same command as at once. -/
theorem accessesWhileBusyDoNotChangeTheResult :
    Obligations.AccessesWhileBusyDoNotChangeTheResult := by
  intro s es hinv hb hes
  obtain ⟨r, hf⟩ := Option.isSome_iff_exists.mp hb
  have hr := hinv.rst_of_busy hb
  obtain ⟨u, hsame, hrun⟩ := run_harmless es hr hf hes
  obtain ⟨hfield, hpoint⟩ := hsame.complete r.result
  refine ⟨_, _, hrun, run_succ 0 (step_withInbox_sequencer hr hf []), hfield, hpoint, ?_, rfl, rfl,
    rfl, rfl, rfl, rfl, rfl, hsame.err, ?_⟩
  · exact (u.complete_cfg _).trans (hsame.cfg.trans (s.complete_cfg _).symm)
  · exact (u.complete_cmdlog _).trans (hsame.cmdlog.trans (s.complete_cmdlog _).symm)

end Sys2Proof.Machine
end

section
/-! PROOF. The reset input, the STATUS word, and host addresses (10_state.md R27, R43,
20_memory.md R50, 70_reset_and_hazards.md R200 to R203). -/

namespace Sys2Proof.Machine

/-! ### STATUS -/

/-- The bits of STATUS from BUSY up, each field at its offset (10_state.md R27). -/
theorem State.statusWord_getLsbD (s : State) (n : Nat) :
    s.statusWord.getLsbD n = (decide (n < 32) &&
      if n < 1 then (BitVec.ofBool s.busy).getLsbD n
      else if n - 1 < 1 then (BitVec.ofBool s.status.done).getLsbD (n - 1)
      else if n - 2 < 2 then (0#2).getLsbD (n - 2)
      else if n - 4 < 4 then s.status.err.bits.getLsbD (n - 4)
      else if n - 8 < 1 then (BitVec.ofBool s.status.z).getLsbD (n - 8)
      else if n - 9 < 1 then (BitVec.ofBool s.status.id).getLsbD (n - 9)
      else if n - 10 < 1 then (BitVec.ofBool s.status.ni).getLsbD (n - 10)
      else if n - 11 < 1 then (BitVec.ofBool s.status.cmdovf).getLsbD (n - 11)
      else (BitVec.ofBool s.status.werr).getLsbD (n - 12)) := by
  rw [State.statusWord, BitVec.getLsbD_setWidth]
  iterate 8 rw [BitVec.getLsbD_append]
  simp only [Nat.sub_sub]

/-- Settles O47: a field of one bit is a bit of the word, a wider one is compared bit by bit, and
nothing stands above WERR. -/
theorem statusWordLayout : Obligations.StatusWordLayout := by
  refine fun s => ⟨s.statusWord_getLsbD_zero, s.statusWord_getLsbD_one, ?_, ?_, ?_, ?_, ?_, ?_, ?_,
    ?_⟩
  case refine_1 | refine_2 =>
    apply BitVec.eq_of_getLsbD_eq
    intro i hi
    rw [BitVec.getLsbD_extractLsb', State.statusWord_getLsbD]
    interval_cases i <;> simp
  case refine_8 =>
    apply BitVec.eq_of_getLsbD_eq
    intro i hi
    rw [BitVec.getLsbD_extractLsb', State.statusWord, BitVec.getLsbD_setWidth,
      BitVec.getLsbD_of_ge _ _ (Nat.le_add_right 13 i)]
    simp
  all_goals
    rw [State.statusWord_getLsbD]
    simp

/-- Settles O53: clearing where the written bit is 1 is `&&` with its negation. -/
theorem statusWriteClearsOnlyItsBits : Obligations.StatusWriteClearsOnlyItsBits := by
  intro s v hw
  have clear (b w : Bool) : (b && !w) = if w then false else b := by cases w <;> simp
  rw [step_of_status hw, ← clear, ← clear, ← clear]
  rfl

/-! ### The level of the reset input -/

theorem State.driveRst_of_reset {s : State} {b : Bool} (h : b = true ∨ s.rst = true) :
    s.driveRst b = { s.resetCore with rst := b } :=
  if_pos (by simpa using h)

theorem State.driveRst_of_released {s : State} (h : s.rst = false) : s.driveRst false = s := by
  simp [State.driveRst, h]

@[simp] theorem State.driveRst_rst (s : State) (b : Bool) : (s.driveRst b).rst = b := by
  by_cases h : b = true ∨ s.rst = true
  · rw [State.driveRst_of_reset h]
  · obtain ⟨rfl, hr⟩ : b = false ∧ s.rst = false := by simpa using h
    rw [State.driveRst_of_released hr, hr]

@[simp] theorem State.setWindowReg_rst (s : State) (r : WindowReg) (v : Val) :
    (s.setWindowReg r v).rst = s.rst := by
  rw [State.setWindowReg_eq]

/-- Only a change of the reset input changes its level. -/
theorem step_rst {s t : State} (h : step s = .next t) (hno : ∀ b rest, s.inbox ≠ .rst b :: rest) :
    t.rst = s.rst := by
  by_cases hres : Resets s
  · rcases hres with ⟨v, hw, hv⟩ | ⟨rest, hi⟩ | ⟨-, rest, hi⟩
    · rw [step_of_soft_reset hw hv] at h
      cases h
      rfl
    · exact absurd hi (hno _ _)
    · exact absurd hi (hno _ _)
  · cases Move.of_step h with
    | reset b hr => exact absurd hr hres
    | window => rw [State.advance_rst, State.setWindowReg_rst]
    | completion => rw [State.advance_rst, State.complete_rst]
    | _ => rfl

/-- A reset leaves the reset state, and the width, from which ID follows. -/
theorem step_of_resets {s : State} (h : Resets s) :
    ∃ b, step s = .next ({ s.resetCore with rst := b } : State).advance := by
  rcases h with ⟨v, hw, hv⟩ | ⟨rest, hi⟩ | ⟨hr, rest, hi⟩
  · exact ⟨s.rst, step_of_soft_reset hw hv⟩
  · exact ⟨true, by rw [step_of_rst hi, State.driveRst_of_reset (.inl rfl)]⟩
  · exact ⟨false, by rw [step_of_rst hi, State.driveRst_of_reset (.inr hr)]⟩

theorem IsReset.lacksModulus {t : State} (h : IsReset t) {c : Instr} (hc : c.modSel ≠ none) :
    t.lacksModulus c = true := by
  obtain ⟨ms, hms⟩ := Option.ne_none_iff_exists'.mp hc
  refine (t.lacksModulus_iff c).mpr ⟨ms, hms, ?_⟩
  have hsel : t.sel ms = 0 := by
    cases ms with
    | p => exact h.cfg .P
    | q => exact h.cfg .Q
  rw [hsel, BitVec.ofNat_eq_ofNat, BitVec.toNat_zero]
  decide

/-- Settles O55: every reset leaves `resetCore`, whatever the level of the input after it. -/
theorem resetLeavesTheResetState : Obligations.ResetLeavesTheResetState := by
  refine ⟨fun s h => ?_, State.reset.resetCore_isReset, fun s b rest hi => ?_,
    fun s t h hno => step_rst h hno, fun s rest hi hr => ?_⟩
  · obtain ⟨b, hstep⟩ := step_of_resets h
    have hreset : IsReset ({ s.resetCore with rst := b } : State).advance :=
      (({ s with rst := b } : State).resetCore_isReset).advance
    exact ⟨_, hstep, hreset, rfl, rfl, fun c hc => hreset.lacksModulus hc⟩
  · exact ⟨_, step_of_rst hi, s.driveRst_rst b⟩
  · rw [step_of_rst hi, State.driveRst_of_released hr, State.advance, hi]
    rfl

/-- The sequencer has the turn when it moves next or the inbox is empty. -/
theorem inbox_of_turn_sequencer {s : State} (h : s.turn = .sequencer) :
    (∃ rest, s.inbox = .sequencer :: rest) ∨ s.inbox = [] := by
  unfold State.turn at h
  split at h
  · exact .inl ⟨_, by assumption⟩
  · exact .inr (by assumption)
  · cases h

/-- Settles O56: the bus is checked for `rst` first, and the sequencer has no step to take. -/
theorem resetInputHoldsCore : Obligations.ResetInputHoldsCore := by
  refine fun s rest hr => ⟨fun off v hi => ?_, fun off hi => ?_, fun ht => ?_⟩
  · rw [step_of_write hi (.inl hr), State.busWrite, if_pos hr, State.advance, hi]
    rfl
  · rw [step_of_read hi, State.busRead, if_pos hr, State.advance]
    simp [hi]
  · exact step_of_nothing (inbox_of_turn_sequencer ht) (.inl hr)

/-! ### Host addresses -/

/-- Settles O58: an offset is below 4096. -/
theorem hostAddressesReachTheWindow : Obligations.HostAddressesReachTheWindow := by
  refine ⟨fun base off => ?_, fun base addr h => if_neg (by omega)⟩
  have hlt := off.isLt
  rw [offsetOf, if_pos (by omega), Nat.add_sub_cancel_left, BitVec.ofNat_toNat,
    BitVec.setWidth_eq]

end Sys2Proof.Machine
end
